-- ==== Sys2Proof/Word.lean ====
section
/-! DEFINITION. The two value domains of the block (`00_scope.md` R8): bytes and 32-bit counters, both
unsigned. Nothing in this hardware is signed and no rule depends on wrap-around (R140). -/

namespace Sys2Proof

/-- A byte: 8 bits, unsigned (R8, R42). -/
abbrev Byte := BitVec 8

/-- A telemetry counter: 32 bits, unsigned (R8; CNT_W of R5). -/
abbrev Counter := BitVec 32

end Sys2Proof
end

