-- ==== Sys2Proof/Config.lean ====
section
/-! DEFINITION. What an implementation fixes and the spec leaves open (`00_scope.md` R6). The one
parameter a rule names is URL_MAX; bus placement (REG_MAP, R51, D19) is not used by any rule, because
registers are identified by name. -/

namespace Sys2Proof

/-- How far URL_MAX lies above its least permitted value. OPEN (R6, D8, U11): nothing constrains it,
so every statement holds for every capacity. Log entry 1. -/
opaque Config.urlMaxSpare : Nat

/-- URL_MAX, the capacity in bytes of URLBUF: an OPEN parameter, "must be at least 114" (R6).
Log entry 1 (DESIGN CHOICE, safe: the capacity stays open). -/
def Config.urlMax : Nat := Config.urlMaxSpare + 114

/-- The only thing the spec says of URL_MAX (R6). -/
theorem Config.urlMax_ge : 114 ≤ Config.urlMax := Nat.le_add_left 114 Config.urlMaxSpare

end Sys2Proof
end

