-- ==== Sys2Proof/Syntax.lean ====
section
/-! DEFINITION. The encodings of the block as syntax: one constructor of `Instr` per row of
`spec/opcode_table.json` (`30_encoding.md` section 6), and the five formats the rows belong to. -/

namespace Sys2Proof

/-- The frame-type variant: UID = 0x00, URL = 0x10, TLM = 0x20, three members only (R5, R79, U6). -/
inductive FrameType where
  | uid
  | url
  | tlm
  deriving DecidableEq, Repr

/-- The five formats of the opcode table: the command byte (R60), byte 0 and the later bytes of a
CompressedURL (R64, R65), the frame-type byte (R79) and the AD structures (R69). -/
inductive Format where
  | cmd
  | t0
  | tb
  | ft
  | ad
  deriving DecidableEq, Repr

/-- One constructor per row of the opcode table. A literal row carries its free low bits; the four
rows whose pattern is a range carry the byte (or the two argument bytes) itself. -/
inductive Instr where
  -- Format CMD: the byte written to CMD (R61)
  | buildUid
  | buildUrl
  | buildTlm
  | encode
  | cmdReserved (code : Byte)
  -- Format T0: prefix tokens (R66)
  | pfx0
  | pfx1
  | pfx2
  | pfx3
  | pfx4
  -- Format TB: suffix tokens (R67)
  | sfx0
  | sfx1
  | sfx2
  | sfx3
  | sfx4
  | sfx5
  | sfx6
  | sfx7
  | sfx8
  | sfx9
  | sfx10
  | sfx11
  | sfx12
  | sfx13
  -- Format TB: the ten blocks of the literal range 0x23 to 0x7e (R65)
  | lit23
  | lit24to27 (low : BitVec 2)
  | lit28to2f (low : BitVec 3)
  | lit30to3f (low : BitVec 4)
  | lit40to5f (low : BitVec 5)
  | lit60to6f (low : BitVec 4)
  | lit70to77 (low : BitVec 3)
  | lit78to7b (low : BitVec 2)
  | lit7cto7d (low : BitVec 1)
  | lit7e
  -- Reserved stream values (R68)
  | t0Reserved (b : Byte)
  | tbReserved (b : Byte)
  -- Format FT: the frame-type byte FR[11] (R79)
  | frameUid
  | frameUrl
  | frameTlm
  -- Format AD: the three AD structures of a frame (R69, R70)
  | adFlags
  | adUuid16List
  | adServiceData (len : Byte) (ftype : FrameType)
  deriving DecidableEq, Repr

end Sys2Proof
end

