-- ==== Sys2Proof/WellFormed.lean ====
section
/-! DEFINITION. Which terms of `Instr` stand for an encoding the table has: the constraints of its four
range rows (CMD.RESERVED, T0.RESERVED, TB.RESERVED, AD.SERVICEDATA). -/

namespace Sys2Proof

/-- The command codes that are not reserved (R61). -/
def isCommandCode (b : Byte) : Bool :=
  b = 0x00#8 || b = 0x10#8 || b = 0x20#8 || b = 0x80#8

/-- The literal range 0x23 to 0x7e (R65; LIT_LO and LIT_HI of R5). -/
def isLiteral (b : Byte) : Bool :=
  decide (0x23 ≤ b.toNat) && decide (b.toNat ≤ 0x7e)

/-- The service-data length bytes each frame kind has: 20 for UID, 17 for TLM, and 4 + CULEN with
CULEN at most 18 for URL (R71, R72, R73, R74 g). -/
def serviceDataLenOk (len : Byte) : FrameType → Bool
  | .uid => len = 20#8
  | .url => decide (4 ≤ len.toNat) && decide (len.toNat ≤ 22)
  | .tlm => len = 17#8

/-- The instruction's operands satisfy its row's constraint. -/
def Instr.wf : Instr → Bool
  | .cmdReserved c => !isCommandCode c
  | .t0Reserved b => decide (5 ≤ b.toNat)
  | .tbReserved b => decide (0x0e ≤ b.toNat) && !isLiteral b
  | .adServiceData len ft => serviceDataLenOk len ft
  | _ => true

end Sys2Proof
end

