-- ==== Sys2Proof/Decode.lean ====
section
/-! DEFINITION. The decoder of each format, total on any bytes and rejecting by name, and after it the
encoder, both from `30_encoding.md` and the rows of `spec/opcode_table.json`. Every word of formats
CMD, T0, TB and FT is one byte (R60, R64, R65); an AD structure is 3, 4 or 5 bytes here (R69, R70). -/

namespace Sys2Proof

/-- Why bytes are no row of their format. -/
inductive Reject where
  /-- there is no byte to decode -/
  | noByte
  /-- a frame-type byte other than 0x00, 0x10, 0x20 (R79, U6) -/
  | reservedFrameType (b : Byte)
  /-- an AD structure that ends before its row's last byte -/
  | truncatedAd
  /-- an AD type byte other than 0x01, 0x03, 0x16 (R69) -/
  | unknownAdType (b : Byte)
  /-- AD type 0x01 with other bytes than 02 01 06 (R70) -/
  | badFlags
  /-- AD type 0x03 with other bytes than 03 03 AA FE (R70) -/
  | badUuidList
  /-- AD type 0x16 with a UUID other than AA FE (R70) -/
  | badUuid
  /-- a service-data length its frame kind does not have (R71, R72, R73) -/
  | badServiceDataLength (len : Byte)
  deriving DecidableEq, Repr

/-- The command byte (R61, R62): all eight bits are compared, every other code is reserved. -/
def decodeCmd (b : Byte) : Instr :=
  match b.toNat with
  | 0x00 => .buildUid
  | 0x10 => .buildUrl
  | 0x20 => .buildTlm
  | 0x80 => .encode
  | _ => .cmdReserved b

/-- Byte 0 of a CompressedURL (R64, R66, R68). -/
def decodeT0 (b : Byte) : Instr :=
  match b.toNat with
  | 0 => .pfx0
  | 1 => .pfx1
  | 2 => .pfx2
  | 3 => .pfx3
  | 4 => .pfx4
  | _ => .t0Reserved b

/-- A literal byte's block of the table, by the table's match and mask; any other byte is reserved. -/
def decodeLit (b : Byte) : Instr :=
  if b = 0x23#8 then .lit23
  else if b &&& 0xfc#8 = 0x24#8 then .lit24to27 (b.setWidth 2)
  else if b &&& 0xf8#8 = 0x28#8 then .lit28to2f (b.setWidth 3)
  else if b &&& 0xf0#8 = 0x30#8 then .lit30to3f (b.setWidth 4)
  else if b &&& 0xe0#8 = 0x40#8 then .lit40to5f (b.setWidth 5)
  else if b &&& 0xf0#8 = 0x60#8 then .lit60to6f (b.setWidth 4)
  else if b &&& 0xf8#8 = 0x70#8 then .lit70to77 (b.setWidth 3)
  else if b &&& 0xfc#8 = 0x78#8 then .lit78to7b (b.setWidth 2)
  else if b &&& 0xfe#8 = 0x7c#8 then .lit7cto7d (b.setWidth 1)
  else if b = 0x7e#8 then .lit7e
  else .tbReserved b

/-- A later byte of a CompressedURL (R65, R67, R68): a suffix index, a literal, or reserved. -/
def decodeTb (b : Byte) : Instr :=
  match b.toNat with
  | 0 => .sfx0
  | 1 => .sfx1
  | 2 => .sfx2
  | 3 => .sfx3
  | 4 => .sfx4
  | 5 => .sfx5
  | 6 => .sfx6
  | 7 => .sfx7
  | 8 => .sfx8
  | 9 => .sfx9
  | 10 => .sfx10
  | 11 => .sfx11
  | 12 => .sfx12
  | 13 => .sfx13
  | _ => decodeLit b

/-- The frame type a frame-type byte stands for (R5, R79). -/
def frameTypeOf (b : Byte) : Option FrameType :=
  match b.toNat with
  | 0x00 => some .uid
  | 0x10 => some .url
  | 0x20 => some .tlm
  | _ => none

/-- The frame-type byte FR[11] (R79). -/
def decodeFt (b : Byte) : Except Reject Instr :=
  match frameTypeOf b with
  | some .uid => .ok .frameUid
  | some .url => .ok .frameUrl
  | some .tlm => .ok .frameTlm
  | none => .error (.reservedFrameType b)

/-- The tail of a Service Data structure: UUID, frame type, and the length's check (R70). -/
def decodeServiceData (len lo hi ft : Byte) : Except Reject Instr :=
  if lo = 0xaa#8 ∧ hi = 0xfe#8 then
    match frameTypeOf ft with
    | some k => if serviceDataLenOk len k then .ok (.adServiceData len k) else .error (.badServiceDataLength len)
    | none => .error (.reservedFrameType ft)
  else .error .badUuid

/-- An AD structure: length byte, type byte, value (R69), one of the three of R70. -/
def decodeAd (bs : List Byte) : Except Reject (Instr × List Byte) :=
  match bs with
  | [] => .error .noByte
  | [_] => .error .truncatedAd
  | len :: type :: value =>
    match type.toNat, value with
    | 0x01, v :: rest =>
      if len = 0x02#8 ∧ v = 0x06#8 then .ok (.adFlags, rest) else .error .badFlags
    | 0x03, lo :: hi :: rest =>
      if len = 0x03#8 ∧ lo = 0xaa#8 ∧ hi = 0xfe#8 then .ok (.adUuid16List, rest) else .error .badUuidList
    | 0x16, lo :: hi :: ft :: rest =>
      match decodeServiceData len lo hi ft with
      | .ok i => .ok (i, rest)
      | .error r => .error r
    | 0x01, _ => .error .truncatedAd
    | 0x03, _ => .error .truncatedAd
    | 0x16, _ => .error .truncatedAd
    | _, _ => .error (.unknownAdType type)

/-- The instruction a format reads at the head of some bytes, with the bytes after it. -/
def decode (fmt : Format) (bs : List Byte) : Except Reject (Instr × List Byte) :=
  match fmt, bs with
  | .cmd, b :: rest => .ok (decodeCmd b, rest)
  | .t0, b :: rest => .ok (decodeT0 b, rest)
  | .tb, b :: rest => .ok (decodeTb b, rest)
  | .ft, b :: rest =>
    match decodeFt b with
    | .ok i => .ok (i, rest)
    | .error r => .error r
  | .ad, bs => decodeAd bs
  | _, [] => .error .noByte

/-- The rows of a CompressedURL: format T0 at position 0, format TB at every later one (R64, R65). -/
def decodeStream : List Byte → List Instr
  | [] => []
  | b :: rest => decodeT0 b :: rest.map decodeTb

/-! ### The encoder -/

/-- The byte of a frame type (R5). -/
def FrameType.byte : FrameType → Byte
  | .uid => 0x00#8
  | .url => 0x10#8
  | .tlm => 0x20#8

/-- The format of an instruction's row. -/
def formatOf : Instr → Format
  | .buildUid | .buildUrl | .buildTlm | .encode | .cmdReserved _ => .cmd
  | .pfx0 | .pfx1 | .pfx2 | .pfx3 | .pfx4 | .t0Reserved _ => .t0
  | .sfx0 | .sfx1 | .sfx2 | .sfx3 | .sfx4 | .sfx5 | .sfx6 => .tb
  | .sfx7 | .sfx8 | .sfx9 | .sfx10 | .sfx11 | .sfx12 | .sfx13 => .tb
  | .lit23 | .lit24to27 _ | .lit28to2f _ | .lit30to3f _ | .lit40to5f _ => .tb
  | .lit60to6f _ | .lit70to77 _ | .lit78to7b _ | .lit7cto7d _ | .lit7e => .tb
  | .tbReserved _ => .tb
  | .frameUid | .frameUrl | .frameTlm => .ft
  | .adFlags | .adUuid16List | .adServiceData _ _ => .ad

/-- The bytes of an instruction, first byte first: the table's fixed bits and the operands. -/
def encode : Instr → List Byte
  | .buildUid => [0x00#8]
  | .buildUrl => [0x10#8]
  | .buildTlm => [0x20#8]
  | .encode => [0x80#8]
  | .cmdReserved c => [c]
  | .pfx0 => [0x00#8]
  | .pfx1 => [0x01#8]
  | .pfx2 => [0x02#8]
  | .pfx3 => [0x03#8]
  | .pfx4 => [0x04#8]
  | .sfx0 => [0x00#8]
  | .sfx1 => [0x01#8]
  | .sfx2 => [0x02#8]
  | .sfx3 => [0x03#8]
  | .sfx4 => [0x04#8]
  | .sfx5 => [0x05#8]
  | .sfx6 => [0x06#8]
  | .sfx7 => [0x07#8]
  | .sfx8 => [0x08#8]
  | .sfx9 => [0x09#8]
  | .sfx10 => [0x0a#8]
  | .sfx11 => [0x0b#8]
  | .sfx12 => [0x0c#8]
  | .sfx13 => [0x0d#8]
  | .lit23 => [0x23#8]
  | .lit24to27 low => [0x09#6 ++ low]
  | .lit28to2f low => [0x05#5 ++ low]
  | .lit30to3f low => [0x03#4 ++ low]
  | .lit40to5f low => [0x02#3 ++ low]
  | .lit60to6f low => [0x06#4 ++ low]
  | .lit70to77 low => [0x0e#5 ++ low]
  | .lit78to7b low => [0x1e#6 ++ low]
  | .lit7cto7d low => [0x3e#7 ++ low]
  | .lit7e => [0x7e#8]
  | .t0Reserved b => [b]
  | .tbReserved b => [b]
  | .frameUid => [0x00#8]
  | .frameUrl => [0x10#8]
  | .frameTlm => [0x20#8]
  | .adFlags => [0x02#8, 0x01#8, 0x06#8]
  | .adUuid16List => [0x03#8, 0x03#8, 0xaa#8, 0xfe#8]
  | .adServiceData len ft => [len, 0x16#8, 0xaa#8, 0xfe#8, ft.byte]

/-! ### The table's words -/

/-- The bytes of a table word of `nbits` bits. The table numbers a row of several bytes as ONE number
whose last byte is the least significant, as the row's pattern is written (log entry 8). -/
def tableBytes (nbits w : Nat) : List Byte :=
  match nbits with
  | 8 => [BitVec.ofNat 8 w]
  | 24 => [BitVec.ofNat 8 (w >>> 16), BitVec.ofNat 8 (w >>> 8), BitVec.ofNat 8 w]
  | 32 => [BitVec.ofNat 8 (w >>> 24), BitVec.ofNat 8 (w >>> 16), BitVec.ofNat 8 (w >>> 8), BitVec.ofNat 8 w]
  | 40 => [BitVec.ofNat 8 (w >>> 32), BitVec.ofNat 8 (w >>> 24), BitVec.ofNat 8 (w >>> 16),
           BitVec.ofNat 8 (w >>> 8), BitVec.ofNat 8 w]
  | _ => []

/-- The format in which a table word is read when nothing says where it stands: one byte is read in
the first format, in the table's order, that has a row other than a reserved one for it, else as a
command byte; several bytes are an AD structure (log entry 8). The machine itself never needs this:
whatever is presented to it carries its format. -/
def tableFormat (bs : List Byte) : Format :=
  match bs with
  | [b] =>
    if isCommandCode b then .cmd
    else if b.toNat ≤ 4 then .t0
    else if b.toNat ≤ 13 || isLiteral b then .tb
    else .cmd
  | _ => .ad

/-- The instruction the decoder reads from a word of the opcode table (log entry 8). -/
def decodeTableWord (nbits w : Nat) : Option Instr :=
  match decode (tableFormat (tableBytes nbits w)) (tableBytes nbits w) with
  | .ok (i, []) => some i
  | _ => none

end Sys2Proof
end

