-- ==== Sys2Proof/Machine/State.lean ====
section
/-! DEFINITION. The state of the block (`10_state.md` R10, R23 to R25, R29), the host's port, and the
ways a step can stop. All of it is plain data. -/

namespace Sys2Proof.Machine

/-- The error kinds a command can raise (R180): the four of the source and the spec's BadCommand. -/
inductive ErrKind where
  | invalidPrefix
  | invalidCharacter
  | tooLong
  | invalidLength
  | badCommand
  deriving DecidableEq, Repr

/-- What STATUS holds: OK or an error kind. Codes 6 and 7 are never produced (R23, U5). Log entry 12. -/
inductive ResultKind where
  | ok
  | err (k : ErrKind)
  deriving DecidableEq, Repr

/-- The bytes of URLBUF as (index, byte) pairs in one canonical form. An unlisted byte reads 0x00,
which is what reset leaves there (R200). -/
abbrev Memory := List Host.Cell

/-- What an unlisted byte of URLBUF reads as: the reset contents (R200). -/
def unlisted : Byte := 0x00#8

/-- The canonical form: indices strictly rising, no entry equal to an unlisted byte. -/
abbrev Memory.wf (m : Memory) : Prop :=
  m.Pairwise (fun x y => x.1 < y.1) ∧ ∀ x ∈ m, x.2 ≠ unlisted

/-- The 31 bytes of a frame (R22, R29). -/
abbrev Frame := Vector Byte 31

/-- The working variables of a command (R24, R25, R29). They have no value between commands, which is
`idle`. `encoding c out`: ENCODE's cursor c and the bytes W[0..w-1] emitted so far, w their number.
`building f k`: a build command's working frame F, and the number k of stream bytes BUILD_URL's copy
loop (R132) has put into it. Log entry 5. -/
inductive Work where
  | idle
  | encoding (c : Nat) (out : List Byte)
  | building (f : Frame) (k : Nat)
  deriving DecidableEq, Repr

/-- A host write (R160). There is none to FR, STATUS or the tables, and none outside the small buffers. -/
inductive HostWrite where
  | urlbuf (k : Nat) (v : Byte)
  | urllen (n : Nat)
  | txpower (v : Byte)
  | nidbuf (k : Fin 10) (v : Byte)
  | nidlen (v : Byte)
  | bidbuf (k : Fin 6) (v : Byte)
  | bidlen (v : Byte)
  | advcnt (v : Counter)
  | elapsed (v : Counter)
  | cu (k : Fin 18) (v : Byte)
  | culen (v : Byte)
  deriving DecidableEq, Repr

/-- A host read (R161): every register and buffer byte but CMD; the tables are not readable. -/
inductive HostRead where
  | urlbuf (k : Nat)
  | urllen
  | txpower
  | nidbuf (k : Fin 10)
  | nidlen
  | bidbuf (k : Fin 6)
  | bidlen
  | advcnt
  | elapsed
  | cu (k : Fin 18)
  | culen
  | fr (k : Fin 31)
  | status
  deriving DecidableEq, Repr

/-- What is presented to the block: a host write, a host read, a write of a byte to CMD (R162), a
reset (R200, log entry 13), or one micro-operation of a command on its own, as bytes of a format. The
last is no move of the host (D22): it lets a command be run step by step (`00_scope.md` section 6,
log entry 4). -/
inductive Event where
  | write (w : HostWrite)
  | read (r : HostRead)
  | cmd (v : Byte)
  | reset
  | micro (fmt : Format) (bytes : List Byte)
  deriving DecidableEq, Repr

/-- The value a host read returns: a byte, URLLEN, or a whole 32-bit counter (R48). -/
inductive Reply where
  | byte (v : Byte)
  | count (n : Nat)
  | counter (v : Counter)
  deriving DecidableEq, Repr

/-- The machine's state. `pending` and `replies` are the model's own (the host's side of the port, log
entries 2 and 3); everything else is the spec's. -/
structure State where
  /-- URLBUF (R11), canonical list -/
  urlbuf : Memory
  /-- URLLEN (R12), 0 to URL_MAX -/
  urllen : Nat
  /-- TXPOWER (R13) -/
  txpower : Byte
  /-- NIDBUF (R14) -/
  nidbuf : Vector Byte 10
  /-- NIDLEN (R15) -/
  nidlen : Byte
  /-- BIDBUF (R16) -/
  bidbuf : Vector Byte 6
  /-- BIDLEN (R17) -/
  bidlen : Byte
  /-- ADVCNT (R18) -/
  advcnt : Counter
  /-- ELAPSED (R19) -/
  elapsed : Counter
  /-- CU (R20) -/
  cu : Vector Byte 18
  /-- CULEN (R21) -/
  culen : Byte
  /-- FR (R22) -/
  fr : Frame
  /-- STATUS (R23) -/
  status : ResultKind
  /-- the working variables c, w, W, F (R24, R25, R29) -/
  work : Work
  /-- what the host presents next, oldest first (log entry 2) -/
  pending : List Event
  /-- what the host's reads returned, oldest first (log entry 3) -/
  replies : List Reply
  deriving DecidableEq, Repr

/-- Why the machine stops with a fault. -/
inductive Fault where
  /-- Raised by a host access to URLBUF at an index at or above URL_MAX, a byte that does not exist
  (R41, R160). Safe: the hardware's interface has no such access. Log entry 10. -/
  | outsideUrlbuf (k : Nat)
  deriving DecidableEq, Repr

/-- Why a step has no meaning. -/
inductive Refusal where
  /-- Raised by no arm: kept for an instruction without a meaning. Safe. -/
  | notModelled (mnemonic : String)
  /-- Raised by a host write of a URLLEN above URL_MAX, a move the interface does not have (R12, R160).
  Safe. Log entry 11. -/
  | noSuchHostMove (n : Nat)
  /-- Raised when the bytes of a micro-operation event are no row of their format. Safe: the block
  produces no such bytes (R79). Log entry 4. -/
  | undecodable (r : Reject)
  /-- Raised when bytes are left over after a micro-operation event's one row. Safe. Log entry 4. -/
  | trailingBytes
  deriving DecidableEq, Repr

/-- The state right after reset (R200): every register zero, STATUS OK, the block idle; nothing is
presented yet and nothing has been read. -/
def State.reset : State where
  urlbuf := []
  urllen := 0
  txpower := 0x00#8
  nidbuf := Vector.replicate 10 0x00#8
  nidlen := 0#8
  bidbuf := Vector.replicate 6 0x00#8
  bidlen := 0#8
  advcnt := 0#32
  elapsed := 0#32
  cu := Vector.replicate 18 0x00#8
  culen := 0#8
  fr := Vector.replicate 31 0x00#8
  status := .ok
  work := .idle
  pending := []
  replies := []

end Sys2Proof.Machine
end

