-- ==== Sys2Proof/Machine/Tables.lean ====
section
/-! DEFINITION. The constants of `00_scope.md` R5 and the two constant tables PFXROM and SFXROM
(`10_state.md` R27, R28; contents `30_encoding.md` R66, R67). They hold at all times (R201). -/

namespace Sys2Proof.Machine

/-- CU_MAX: the largest compressed-URL length (R5). -/
def cuMax : Nat := 18

/-- NID_LEN: the required namespace ID length (R5). -/
def nidLen : Byte := 10#8

/-- BID_LEN: the required instance ID length (R5). -/
def bidLen : Byte := 6#8

/-- EDDY_UUID: the 16-bit service UUID (R5). -/
def eddyUuid : BitVec 16 := 0xfeaa#16

/-- SD_LEN_UID (R5, C1). -/
def sdLenUid : Byte := 20#8

/-- SD_LEN_TLM (R5, C2). -/
def sdLenTlm : Byte := 0x11#8

/-- SD_LEN_URL: 4 + CULEN (R5, R74 g). -/
def sdLenUrl (culen : Byte) : Byte := 4#8 + culen

/-- PFXROM, index order (R66): `http://www.`, `https://www.`, `http://`, `https://`, `urn:uuid:`. -/
def pfxRom : List (List Byte) :=
  [[0x68, 0x74, 0x74, 0x70, 0x3a, 0x2f, 0x2f, 0x77, 0x77, 0x77, 0x2e],
   [0x68, 0x74, 0x74, 0x70, 0x73, 0x3a, 0x2f, 0x2f, 0x77, 0x77, 0x77, 0x2e],
   [0x68, 0x74, 0x74, 0x70, 0x3a, 0x2f, 0x2f],
   [0x68, 0x74, 0x74, 0x70, 0x73, 0x3a, 0x2f, 0x2f],
   [0x75, 0x72, 0x6e, 0x3a, 0x75, 0x75, 0x69, 0x64, 0x3a]]

/-- SFXROM, index order (R67): `.com/`, `.org/`, `.edu/`, `.net/`, `.info/`, `.biz/`, `.gov/`, then
the same without the slash. -/
def sfxRom : List (List Byte) :=
  [[0x2e, 0x63, 0x6f, 0x6d, 0x2f],
   [0x2e, 0x6f, 0x72, 0x67, 0x2f],
   [0x2e, 0x65, 0x64, 0x75, 0x2f],
   [0x2e, 0x6e, 0x65, 0x74, 0x2f],
   [0x2e, 0x69, 0x6e, 0x66, 0x6f, 0x2f],
   [0x2e, 0x62, 0x69, 0x7a, 0x2f],
   [0x2e, 0x67, 0x6f, 0x76, 0x2f],
   [0x2e, 0x63, 0x6f, 0x6d],
   [0x2e, 0x6f, 0x72, 0x67],
   [0x2e, 0x65, 0x64, 0x75],
   [0x2e, 0x6e, 0x65, 0x74],
   [0x2e, 0x69, 0x6e, 0x66, 0x6f],
   [0x2e, 0x62, 0x69, 0x7a],
   [0x2e, 0x67, 0x6f, 0x76]]

/-- Entry `i` of a table. -/
def romEntry (rom : List (List Byte)) (i : Nat) : List Byte := rom.getD i []

/-- The disjointness invariant of R109, asserted when the model is built (U1): no token value reaches
the literal range. A change of a table that broke it would not compile. -/
theorem tokens_below_literals : sfxRom.length ≤ 0x23 ∧ pfxRom.length ≤ 0x23 := by decide

end Sys2Proof.Machine
end

