-- ==== Sys2Proof/Machine/Flags.lean ====
section
/-! DEFINITION. The block's only condition code: the result kind in STATUS (`10_state.md` R23,
`30_encoding.md` R63, `60_exceptions.md` R180). There are no arithmetic flags. -/

namespace Sys2Proof.Machine

/-- The code of an error kind (R23, R180). -/
def errCode : ErrKind → Byte
  | .invalidPrefix => 1#8
  | .invalidCharacter => 2#8
  | .tooLong => 3#8
  | .invalidLength => 4#8
  | .badCommand => 5#8

/-- The byte the host reads from STATUS: CODE in bits 2:0, bits 7:3 zero (R23, R63). -/
def statusByte : ResultKind → Byte
  | .ok => 0#8
  | .err k => errCode k

end Sys2Proof.Machine
end

