-- ==== Sys2Proof/Machine/Operands.lean ====
section
/-! DEFINITION. How operands are read and assembled into encodings: byte order (`20_memory.md` R43,
R44), operand assembly (`30_encoding.md` R74), and reading URLBUF (R11, R40). -/

namespace Sys2Proof.Machine

/-- `BE32(v)`: most significant byte first (R44, `00_scope.md` section 7). -/
def be32 (v : Counter) : List Byte :=
  [v.extractLsb' 24 8, v.extractLsb' 16 8, v.extractLsb' 8 8, v.extractLsb' 0 8]

/-- `BE16(v)`: the 16-bit TLM fields, most significant byte first (R45). -/
def be16 (v : BitVec 16) : List Byte :=
  [v.extractLsb' 8 8, v.extractLsb' 0 8]

/-- `LE16(v)`: least significant byte first (R43, `00_scope.md` section 7). -/
def le16 (v : BitVec 16) : List Byte :=
  [v.extractLsb' 0 8, v.extractLsb' 8 8]

/-- A token: the zero-based table position as an 8-bit value (R74 a). -/
def tokenByte (i : Nat) : Byte := BitVec.ofNat 8 i

/-- Byte `k` of URLBUF; an unlisted one holds its reset value (R40, R200). -/
def Memory.read : Memory → Nat → Byte
  | [], _ => unlisted
  | (a, v) :: rest, k => if a = k then v else Memory.read rest k

/-- The input of ENCODE: URLBUF[0..URLLEN-1]; bytes at URLLEN and above are no part of it (R11). -/
def State.url (s : State) : List Byte :=
  (List.range s.urllen).map s.urlbuf.read

/-- The compressed URL of BUILD_URL: CU[0..CULEN-1] (R132, R139). -/
def State.stream (s : State) : List Byte :=
  s.cu.toList.take s.culen.toNat

end Sys2Proof.Machine
end

