-- ==== Sys2Proof/Machine/Ops.lean ====
section
/-! DEFINITION. The named operations over the registers and buffers: writing URLBUF, the commits of CU
and FR, ending a command with an error (`raise`) or with OK (`done`), and the host's reads and writes
(`00_scope.md` section 8, `42_host_commands.md` R160, R161, `60_exceptions.md` R187). -/

namespace Sys2Proof.Machine

/-- Write byte `k` of URLBUF, keeping the canonical form: writing the reset value unlists the byte. -/
def Memory.write : Memory → Nat → Byte → Memory
  | [], k, v => if v = unlisted then [] else [(k, v)]
  | (a, w) :: rest, k, v =>
    if k < a then (if v = unlisted then (a, w) :: rest else (k, v) :: (a, w) :: rest)
    else if k = a then (if v = unlisted then rest else (k, v) :: rest)
    else (a, w) :: Memory.write rest k v

/-- `MemWrite(S, a, n, v)` on a buffer: consecutive bytes from offset a on (`00_scope.md` section 8). No
rule writes outside a buffer (R41). -/
def putBytes {n : Nat} (buf : Vector Byte n) (a : Nat) : List Byte → Vector Byte n
  | [] => buf
  | b :: bs => putBytes (buf.setIfInBounds a b) (a + 1) bs

/-- Set the working variables. -/
def State.setWork (s : State) (w : Work) : State := { s with work := w }

/-- Take what the host presents next off the port. -/
def State.setPending (s : State) (es : List Event) : State := { s with pending := es }

/-- Hand a value back to the host. -/
def State.reply (s : State) (r : Reply) : State := { s with replies := s.replies ++ [r] }

/-! ### Ending a command -/

/-- `raise <Kind>`: the command ends; STATUS holds the kind and nothing else is written (R187). This is
the block's exception entry: nothing is saved, no mode changes, control goes nowhere. There is no
return from it (R188): the next command overwrites STATUS. -/
def raise (k : ErrKind) (s : State) : State := { s with status := .err k, work := .idle }

/-- `done`: the command ends with STATUS OK (`00_scope.md` section 8). -/
def done (s : State) : State := { s with status := .ok, work := .idle }

/-- The 18 bytes of CU for an output W[0..w-1]: the output, then zeros (R106, D6). -/
def cuOf (out : List Byte) : Vector Byte 18 := putBytes (Vector.replicate 18 0x00#8) 0 out

/-- ENCODE's commit: CU and CULEN (R106). -/
def commitCu (out : List Byte) (s : State) : State :=
  { s with cu := cuOf out, culen := BitVec.ofNat 8 out.length }

/-- A build command's commit: all 31 bytes of FR at once (R22, R135). -/
def commitFr (f : Frame) (s : State) : State := { s with fr := f }

/-! ### The host's accesses -/

/-- A host write stores exactly the value given and does nothing else (R160). -/
def hostWrite (w : HostWrite) (s : State) : Host.Outcome State Fault Refusal :=
  match w with
  | .urlbuf k v =>
    if k < Config.urlMax then .next { s with urlbuf := s.urlbuf.write k v } else .fault (.outsideUrlbuf k)
  | .urllen n => if n ≤ Config.urlMax then .next { s with urllen := n } else .refused (.noSuchHostMove n)
  | .txpower v => .next { s with txpower := v }
  | .nidbuf k v => .next { s with nidbuf := s.nidbuf.set k v }
  | .nidlen v => .next { s with nidlen := v }
  | .bidbuf k v => .next { s with bidbuf := s.bidbuf.set k v }
  | .bidlen v => .next { s with bidlen := v }
  | .advcnt v => .next { s with advcnt := v }
  | .elapsed v => .next { s with elapsed := v }
  | .cu k v => .next { s with cu := s.cu.set k v }
  | .culen v => .next { s with culen := v }

/-- The value a host read returns (R161). -/
def readValue (r : HostRead) (s : State) : Reply :=
  match r with
  | .urlbuf k => .byte (s.urlbuf.read k)
  | .urllen => .count s.urllen
  | .txpower => .byte s.txpower
  | .nidbuf k => .byte s.nidbuf[k]
  | .nidlen => .byte s.nidlen
  | .bidbuf k => .byte s.bidbuf[k]
  | .bidlen => .byte s.bidlen
  | .advcnt => .counter s.advcnt
  | .elapsed => .counter s.elapsed
  | .cu k => .byte s.cu[k]
  | .culen => .byte s.culen
  | .fr k => .byte s.fr[k]
  | .status => .byte (statusByte s.status)

/-- A host read changes no register (R49, R161); the value goes to the host. -/
def hostRead (r : HostRead) (s : State) : Host.Outcome State Fault Refusal :=
  match r with
  | .urlbuf k =>
    if k < Config.urlMax then .next (s.reply (readValue (.urlbuf k) s)) else .fault (.outsideUrlbuf k)
  | r => .next (s.reply (readValue r s))

/-- Reset: every register to its reset value and the block idle (R200, R202). What the host is about
to present and what it has read are the host's and stay (log entry 13). -/
def resetBlock (s : State) : State :=
  { State.reset with pending := s.pending, replies := s.replies }

end Sys2Proof.Machine
end

