-- ==== Sys2Proof/Machine/Codec.lean ====
section
/-! DEFINITION. The URL Token Codec (`40_url_token_codec.md`): the match predicate, the micro-operations
ENC.PFX, ENC.SFX, ENC.LIT, ENC.LEN, and the whole of `encode(url)` made of them. An error answers its
kind; `raise` puts it into STATUS. -/

namespace Sys2Proof.Machine

/-- `matches(t, c)` (R101): the entry lies wholly inside the input at position c, byte for byte. -/
def matchesAt (url t : List Byte) (c : Nat) : Bool :=
  decide (c + t.length ≤ url.length) && decide ((url.drop c).take t.length = t)

/-- `first i with matches(rom[i], c)`: table order, first match wins (R108). -/
def firstMatch (rom : List (List Byte)) (url : List Byte) (c : Nat) : Option Nat :=
  rom.findIdx? (fun t => matchesAt url t c)

/-- ENC.PFX (R102): the prefix token as first output byte, the cursor past the prefix. -/
def encPfx (url : List Byte) : Except ErrKind (Nat × List Byte) :=
  match firstMatch pfxRom url 0 with
  | none => .error .invalidPrefix
  | some p => .ok ((romEntry pfxRom p).length, [tokenByte p])

/-- ENC.SFX (R103): the suffix token at c and the cursor past the suffix, if an entry matches. -/
def encSfx (url : List Byte) (c : Nat) : Option (Byte × Nat) :=
  match firstMatch sfxRom url c with
  | none => none
  | some j => some (tokenByte j, c + (romEntry sfxRom j).length)

/-- ENC.LIT (R104): the input byte itself if it lies in 0x23 to 0x7e, and the cursor past it. -/
def encLit (url : List Byte) (c : Nat) : Except ErrKind (Byte × Nat) :=
  let ch := url.getD c 0x00#8
  if ch.toNat ≤ 0x22 ∨ 0x7f ≤ ch.toNat then .error .invalidCharacter else .ok (ch, c + 1)

/-- ENC.LEN (R105): the emission that would make the length 19 fails. -/
def encLen (out : List Byte) (b : Byte) : Except ErrKind (List Byte) :=
  if out.length = cuMax then .error .tooLong else .ok (out ++ [b])

/-- The emission of a body byte: the cursor moves to c' and ENC.LEN stores the byte. -/
def encEmit (out : List Byte) (b : Byte) (c' : Nat) : Except ErrKind (Nat × List Byte) :=
  match encLen out b with
  | .error k => .error k
  | .ok out' => .ok (c', out')

/-- One pass of the body loop (R100, R107): suffix lookup; if none, the character check; then the
length check. -/
def encPass (url : List Byte) (c : Nat) (out : List Byte) : Except ErrKind (Nat × List Byte) :=
  match encSfx url c with
  | some (b, c') => encEmit out b c'
  | none =>
    match encLit url c with
    | .error k => .error k
    | .ok (b, c') => encEmit out b c'

/-- The body loop `while c < n` (R100, R106). Its first argument counts the passes left: at most 18 are
ever made (R106 c), because a pass that does not raise makes the output longer, so a run that starts
with one byte never comes to 0. -/
def encBody (url : List Byte) : Nat → Nat → List Byte → Except ErrKind (List Byte)
  | 0, _, _ => .error .tooLong
  | passes + 1, c, out =>
    if c < url.length then
      match encPass url c out with
      | .error k => .error k
      | .ok (c', out') => encBody url passes c' out'
    else .ok out

/-- `encode(url)` (R100): the compressed URL or the error kind met first (R107). -/
def encodeUrl (url : List Byte) : Except ErrKind (List Byte) :=
  match encPfx url with
  | .error k => .error k
  | .ok (c, out) => encBody url cuMax c out

/-- ENCODE's end: commit and OK, or raise (R106, R187). -/
def endEncode (r : Except ErrKind (List Byte)) (s : State) : State :=
  match r with
  | .error k => raise k s
  | .ok out => done (commitCu out s)

end Sys2Proof.Machine
end

