-- ==== Sys2Proof/Machine/Frame.lean ====
section
/-! DEFINITION. The Frame Builder (`41_frame_builder.md`): the preamble, the three frame formats
(`30_encoding.md` R70 to R73) and the builders' preconditions. -/

namespace Sys2Proof.Machine

/-- The fresh working frame: 31 zero bytes (R134). -/
def zeroFrame : Frame := Vector.replicate 31 0x00#8

/-- The Flags AD structure at offsets 0 to 2 (R130). -/
def putAdFlags (f : Frame) : Frame := putBytes f 0 [0x02#8, 0x01#8, 0x06#8]

/-- The Service-UUID-List AD structure at offsets 3 to 6 (R130, R43). -/
def putAdUuid16List (f : Frame) : Frame := putBytes f 3 ([0x03#8, 0x03#8] ++ le16 eddyUuid)

/-- The head of the Service Data AD structure at offsets 7 to 11 (R130, R43). -/
def putAdServiceData (sdlen ftype : Byte) (f : Frame) : Frame :=
  putBytes f 7 ([sdlen, 0x16#8] ++ le16 eddyUuid ++ [ftype])

/-- `PRE(sdlen, ftype)` (R130): offsets 0 to 11 of the working frame. -/
def putPre (sdlen ftype : Byte) (f : Frame) : Frame :=
  putAdServiceData sdlen ftype (putAdUuid16List (putAdFlags f))

/-- Format UID (R71). -/
def uidFrame (tx : Byte) (nid : Vector Byte 10) (bid : Vector Byte 6) : Frame :=
  putBytes (putPre sdLenUid FrameType.uid.byte zeroFrame) 12 ([tx] ++ nid.toList ++ bid.toList)

/-- Format URL (R72): the stream is CU[0..CULEN-1], at most 18 bytes. -/
def urlFrame (tx culen : Byte) (stream : List Byte) : Frame :=
  putBytes (putPre (sdLenUrl culen) FrameType.url.byte zeroFrame) 12 ([tx] ++ stream)

/-- The fixed sub-fields of a TLM frame at offsets 12 to 16 (R73, D12): version 0x00, voltage 0,
temperature 0x8000. -/
def tlmFixed : List Byte := [0x00#8] ++ be16 0x0000#16 ++ be16 0x8000#16

/-- Format TLM (R73). ELAPSED goes in as it is, in whole seconds (R138). -/
def tlmFrame (adv sec : Counter) : Frame :=
  putBytes (putPre sdLenTlm FrameType.tlm.byte zeroFrame) 12 (tlmFixed ++ be32 adv ++ be32 sec)

/-- BUILD_UID up to its commit (R131): the precondition, then the frame. -/
def assembleUid (s : State) : Except ErrKind Frame :=
  if s.nidlen ≠ nidLen ∨ s.bidlen ≠ bidLen then .error .invalidLength
  else .ok (uidFrame s.txpower s.nidbuf s.bidbuf)

/-- BUILD_URL up to its commit (R132): the re-check of the length, then the frame. -/
def assembleUrl (s : State) : Except ErrKind Frame :=
  if cuMax < s.culen.toNat then .error .tooLong
  else .ok (urlFrame s.txpower s.culen s.stream)

/-- BUILD_TLM up to its commit (R133): no precondition. -/
def assembleTlm (s : State) : Except ErrKind Frame :=
  .ok (tlmFrame s.advcnt s.elapsed)

/-- A build command's end: FR and OK, or raise (R135, R187). -/
def endBuild (r : Except ErrKind Frame) (s : State) : State :=
  match r with
  | .error k => raise k s
  | .ok f => done (commitFr f s)

end Sys2Proof.Machine
end

