-- ==== Sys2Proof/Machine/Command.lean ====
section
/-! DEFINITION. The meanings of format CMD: the four commands and the reserved codes (R61, R162). A
command is one indivisible step (R4, R164): it starts afresh whatever the working variables held, reads
its operand registers, ends by writing STATUS, and leaves the block idle. -/

namespace Sys2Proof.Machine

/-- ENCODE (R100). -/
def execEncode (s : State) : Host.Outcome State Fault Refusal :=
  .next (endEncode (encodeUrl s.url) s)

/-- BUILD_UID (R131). -/
def execBuildUid (s : State) : Host.Outcome State Fault Refusal :=
  .next (endBuild (assembleUid s) s)

/-- BUILD_URL (R132). -/
def execBuildUrl (s : State) : Host.Outcome State Fault Refusal :=
  .next (endBuild (assembleUrl s) s)

/-- BUILD_TLM (R133). -/
def execBuildTlm (s : State) : Host.Outcome State Fault Refusal :=
  .next (endBuild (assembleTlm s) s)

/-- A reserved command code, whichever it is: BadCommand and nothing else (R62, R163, R185). -/
def execCmdReserved (_code : Byte) (s : State) : Host.Outcome State Fault Refusal :=
  .next (raise .badCommand s)

end Sys2Proof.Machine
end

