-- ==== Sys2Proof/Machine/Layout.lean ====
section
/-! DEFINITION. The meanings of formats FT and AD: how the Frame Builder lays a frame out in the
working frame F. A frame-type row is its builder's run up to the commit (R71 to R73, R131 to R133); an
AD row is its structure of the preamble (R69, R130). Neither writes FR (log entry 6). -/

namespace Sys2Proof.Machine

/-- A frame-type row: F becomes the whole frame of its format, or the builder's precondition raises.
While ENCODE runs the Frame Builder does nothing (R4). -/
def layOut (k : Nat) (r : Except ErrKind Frame) (s : State) : State :=
  match s.work with
  | .encoding _ _ => s
  | _ =>
    match r with
    | .error e => raise e s
    | .ok f => s.setWork (.building f k)

/-- An AD row: its bytes go into F, into a fresh zero frame if no build has begun (R134). While ENCODE
runs the Frame Builder does nothing (R4). -/
def layIn (g : Frame → Frame) (s : State) : State :=
  match s.work with
  | .idle => s.setWork (.building (g zeroFrame) 0)
  | .encoding _ _ => s
  | .building f k => s.setWork (.building (g f) k)

/-- FRAME.UID: format UID (R71). -/
def execFrameUid (s : State) : Host.Outcome State Fault Refusal := .next (layOut 0 (assembleUid s) s)

/-- FRAME.URL: format URL (R72); its copy loop has run to CULEN. -/
def execFrameUrl (s : State) : Host.Outcome State Fault Refusal :=
  .next (layOut s.culen.toNat (assembleUrl s) s)

/-- FRAME.TLM: format TLM (R73). -/
def execFrameTlm (s : State) : Host.Outcome State Fault Refusal := .next (layOut 0 (assembleTlm s) s)

/-- AD.FLAGS (R70, R130). -/
def execAdFlags (s : State) : Host.Outcome State Fault Refusal := .next (layIn putAdFlags s)

/-- AD.UUID16LIST (R70, R130). -/
def execAdUuid16List (s : State) : Host.Outcome State Fault Refusal := .next (layIn putAdUuid16List s)

/-- AD.SERVICEDATA (R70, R130): the length byte and the frame-type byte are its two arguments. -/
def execAdServiceData (len : Byte) (ftype : FrameType) (s : State) : Host.Outcome State Fault Refusal :=
  .next (layIn (putAdServiceData len ftype.byte) s)

end Sys2Proof.Machine
end

