-- ==== Sys2Proof/Machine/Token.lean ====
section
/-! DEFINITION. The meanings of formats T0 and TB: the micro-operation in which the block handles a
stream byte. While ENCODE runs (or is about to start) it is the emission of that byte, ENC.PFX, ENC.SFX
or ENC.LIT with ENC.LEN (R102 to R105); while BUILD_URL runs it is the copy of that byte into the frame
(R132, R68). A row acts where the command would handle exactly that byte, and changes nothing where the
command would handle another one (log entries 4, 5 and 7). -/

namespace Sys2Proof.Machine

/-- BUILD_URL handles stream byte k next and it is b: k < CULEN, CU[k] = b, and the frame being built
is a URL frame (R132). -/
def copiesNext (s : State) (f : Frame) (k : Nat) (b : Byte) : Bool :=
  decide (k < s.culen.toNat) && decide (s.cu[k]? = some b) && decide (f[11] = FrameType.url.byte)

/-- One turn of BUILD_URL's copy loop, `F[13 + k] <- CU[k]`, for the byte b (R132): the byte is not
examined (R139). -/
def copyByte (b : Byte) (f : Frame) (k : Nat) (s : State) : State :=
  if copiesNext s f k b then s.setWork (.building (putBytes f (13 + k) [b]) (k + 1)) else s

/-- The copy of a byte of format T0: position 0 of the stream (R64). -/
def copyFirst (b : Byte) (f : Frame) (k : Nat) (s : State) : State :=
  if k = 0 then copyByte b f k s else s

/-- The copy of a byte of format TB: a later position of the stream (R65). -/
def copyLater (b : Byte) (f : Frame) (k : Nat) (s : State) : State :=
  if k = 0 then s else copyByte b f k s

/-- What an emission leaves: the new cursor and output, or the error raised. -/
def endEmission (r : Except ErrKind (Nat × List Byte)) (s : State) : State :=
  match r with
  | .error k => raise k s
  | .ok (c, out) => s.setWork (.encoding c out)

/-- ENC.PFX (R102) for the prefix token i: it starts ENCODE if the token ENC.PFX emits is i, and raises
InvalidPrefix if there is none. -/
def emitPrefix (i : Nat) (s : State) : State :=
  match encPfx s.url with
  | .error k => raise k s
  | .ok (c, out) => if out = [tokenByte i] then s.setWork (.encoding c out) else s

/-- ENC.SFX (R103) at cursor c for the suffix token j, with ENC.LEN (R105). -/
def emitSuffix (j c : Nat) (out : List Byte) (s : State) : State :=
  if firstMatch sfxRom s.url c = some j then
    endEmission (encEmit out (tokenByte j) (c + (romEntry sfxRom j).length)) s
  else s

/-- ENC.LIT (R104) at cursor c for the literal ch, with ENC.LEN (R105): only where no suffix matches
and the input is not at its end; InvalidCharacter if the byte at the cursor is no literal. -/
def emitLiteral (ch : Byte) (c : Nat) (out : List Byte) (s : State) : State :=
  if c < s.url.length ∧ firstMatch sfxRom s.url c = none then
    match encLit s.url c with
    | .error k => raise k s
    | .ok (b, c') => if b = ch then endEmission (encEmit out b c') s else s
  else s

/-- The prefix token i: ENC.PFX when no command runs, looked for only once (R102 f); the copy at
position 0 when BUILD_URL runs. -/
def pfxToken (i : Nat) (s : State) : State :=
  match s.work with
  | .idle => emitPrefix i s
  | .encoding _ _ => s
  | .building f k => copyFirst (tokenByte i) f k s

/-- The suffix token j. -/
def sfxToken (j : Nat) (s : State) : State :=
  match s.work with
  | .idle => s
  | .encoding c out => emitSuffix j c out s
  | .building f k => copyLater (tokenByte j) f k s

/-- The literal ch. -/
def litToken (ch : Byte) (s : State) : State :=
  match s.work with
  | .idle => s
  | .encoding c out => emitLiteral ch c out s
  | .building f k => copyLater ch f k s

/-- A reserved first byte: never produced by ENCODE, copied unexamined by BUILD_URL (R68, R139). -/
def reservedFirst (b : Byte) (s : State) : State :=
  match s.work with
  | .building f k => copyFirst b f k s
  | _ => s

/-- A reserved later byte: never produced by ENCODE, copied unexamined by BUILD_URL (R68, R139). -/
def reservedLater (b : Byte) (s : State) : State :=
  match s.work with
  | .building f k => copyLater b f k s
  | _ => s

/-! ### Prefix tokens (R66, R102) -/

/-- PFX.0, `http://www.` -/
def execPfx0 (s : State) : Host.Outcome State Fault Refusal := .next (pfxToken 0 s)

/-- PFX.1, `https://www.` -/
def execPfx1 (s : State) : Host.Outcome State Fault Refusal := .next (pfxToken 1 s)

/-- PFX.2, `http://` -/
def execPfx2 (s : State) : Host.Outcome State Fault Refusal := .next (pfxToken 2 s)

/-- PFX.3, `https://` -/
def execPfx3 (s : State) : Host.Outcome State Fault Refusal := .next (pfxToken 3 s)

/-- PFX.4, `urn:uuid:` -/
def execPfx4 (s : State) : Host.Outcome State Fault Refusal := .next (pfxToken 4 s)

/-! ### Suffix tokens (R67, R103) -/

/-- SFX.0, `.com/` -/
def execSfx0 (s : State) : Host.Outcome State Fault Refusal := .next (sfxToken 0 s)

/-- SFX.1, `.org/` -/
def execSfx1 (s : State) : Host.Outcome State Fault Refusal := .next (sfxToken 1 s)

/-- SFX.2, `.edu/` -/
def execSfx2 (s : State) : Host.Outcome State Fault Refusal := .next (sfxToken 2 s)

/-- SFX.3, `.net/` -/
def execSfx3 (s : State) : Host.Outcome State Fault Refusal := .next (sfxToken 3 s)

/-- SFX.4, `.info/` -/
def execSfx4 (s : State) : Host.Outcome State Fault Refusal := .next (sfxToken 4 s)

/-- SFX.5, `.biz/` -/
def execSfx5 (s : State) : Host.Outcome State Fault Refusal := .next (sfxToken 5 s)

/-- SFX.6, `.gov/` -/
def execSfx6 (s : State) : Host.Outcome State Fault Refusal := .next (sfxToken 6 s)

/-- SFX.7, `.com` -/
def execSfx7 (s : State) : Host.Outcome State Fault Refusal := .next (sfxToken 7 s)

/-- SFX.8, `.org` -/
def execSfx8 (s : State) : Host.Outcome State Fault Refusal := .next (sfxToken 8 s)

/-- SFX.9, `.edu` -/
def execSfx9 (s : State) : Host.Outcome State Fault Refusal := .next (sfxToken 9 s)

/-- SFX.10, `.net` -/
def execSfx10 (s : State) : Host.Outcome State Fault Refusal := .next (sfxToken 10 s)

/-- SFX.11, `.info` -/
def execSfx11 (s : State) : Host.Outcome State Fault Refusal := .next (sfxToken 11 s)

/-- SFX.12, `.biz` -/
def execSfx12 (s : State) : Host.Outcome State Fault Refusal := .next (sfxToken 12 s)

/-- SFX.13, `.gov` -/
def execSfx13 (s : State) : Host.Outcome State Fault Refusal := .next (sfxToken 13 s)

/-! ### Literals (R65, R104): the byte is the row's fixed bits followed by its free low bits -/

/-- LIT.23 -/
def execLit23 (s : State) : Host.Outcome State Fault Refusal := .next (litToken 0x23#8 s)

/-- LIT.24_27 -/
def execLit24to27 (low : BitVec 2) (s : State) : Host.Outcome State Fault Refusal :=
  .next (litToken (0x09#6 ++ low) s)

/-- LIT.28_2f -/
def execLit28to2f (low : BitVec 3) (s : State) : Host.Outcome State Fault Refusal :=
  .next (litToken (0x05#5 ++ low) s)

/-- LIT.30_3f -/
def execLit30to3f (low : BitVec 4) (s : State) : Host.Outcome State Fault Refusal :=
  .next (litToken (0x03#4 ++ low) s)

/-- LIT.40_5f -/
def execLit40to5f (low : BitVec 5) (s : State) : Host.Outcome State Fault Refusal :=
  .next (litToken (0x02#3 ++ low) s)

/-- LIT.60_6f -/
def execLit60to6f (low : BitVec 4) (s : State) : Host.Outcome State Fault Refusal :=
  .next (litToken (0x06#4 ++ low) s)

/-- LIT.70_77 -/
def execLit70to77 (low : BitVec 3) (s : State) : Host.Outcome State Fault Refusal :=
  .next (litToken (0x0e#5 ++ low) s)

/-- LIT.78_7b -/
def execLit78to7b (low : BitVec 2) (s : State) : Host.Outcome State Fault Refusal :=
  .next (litToken (0x1e#6 ++ low) s)

/-- LIT.7c_7d -/
def execLit7cto7d (low : BitVec 1) (s : State) : Host.Outcome State Fault Refusal :=
  .next (litToken (0x3e#7 ++ low) s)

/-- LIT.7e -/
def execLit7e (s : State) : Host.Outcome State Fault Refusal := .next (litToken 0x7e#8 s)

/-! ### Reserved stream values (R68) -/

/-- T0.RESERVED -/
def execT0Reserved (b : Byte) (s : State) : Host.Outcome State Fault Refusal := .next (reservedFirst b s)

/-- TB.RESERVED -/
def execTbReserved (b : Byte) (s : State) : Host.Outcome State Fault Refusal := .next (reservedLater b s)

end Sys2Proof.Machine
end

