-- ==== Sys2Proof/Machine/Dispatch.lean ====
section
/-! DEFINITION. The dispatch: one arm per row of the opcode table, each one call of its meaning. -/

namespace Sys2Proof.Machine

def exec (i : Instr) (s : State) : Host.Outcome State Fault Refusal :=
  match i with
  -- Format CMD (R61, R62)
  | .buildUid => Sys2Proof.Machine.execBuildUid s
  | .buildUrl => Sys2Proof.Machine.execBuildUrl s
  | .buildTlm => Sys2Proof.Machine.execBuildTlm s
  | .encode => Sys2Proof.Machine.execEncode s
  | .cmdReserved code => Sys2Proof.Machine.execCmdReserved code s
  -- Format T0 (R66)
  | .pfx0 => Sys2Proof.Machine.execPfx0 s
  | .pfx1 => Sys2Proof.Machine.execPfx1 s
  | .pfx2 => Sys2Proof.Machine.execPfx2 s
  | .pfx3 => Sys2Proof.Machine.execPfx3 s
  | .pfx4 => Sys2Proof.Machine.execPfx4 s
  -- Format TB: suffix tokens (R67)
  | .sfx0 => Sys2Proof.Machine.execSfx0 s
  | .sfx1 => Sys2Proof.Machine.execSfx1 s
  | .sfx2 => Sys2Proof.Machine.execSfx2 s
  | .sfx3 => Sys2Proof.Machine.execSfx3 s
  | .sfx4 => Sys2Proof.Machine.execSfx4 s
  | .sfx5 => Sys2Proof.Machine.execSfx5 s
  | .sfx6 => Sys2Proof.Machine.execSfx6 s
  | .sfx7 => Sys2Proof.Machine.execSfx7 s
  | .sfx8 => Sys2Proof.Machine.execSfx8 s
  | .sfx9 => Sys2Proof.Machine.execSfx9 s
  | .sfx10 => Sys2Proof.Machine.execSfx10 s
  | .sfx11 => Sys2Proof.Machine.execSfx11 s
  | .sfx12 => Sys2Proof.Machine.execSfx12 s
  | .sfx13 => Sys2Proof.Machine.execSfx13 s
  -- Format TB: literals (R65)
  | .lit23 => Sys2Proof.Machine.execLit23 s
  | .lit24to27 low => Sys2Proof.Machine.execLit24to27 low s
  | .lit28to2f low => Sys2Proof.Machine.execLit28to2f low s
  | .lit30to3f low => Sys2Proof.Machine.execLit30to3f low s
  | .lit40to5f low => Sys2Proof.Machine.execLit40to5f low s
  | .lit60to6f low => Sys2Proof.Machine.execLit60to6f low s
  | .lit70to77 low => Sys2Proof.Machine.execLit70to77 low s
  | .lit78to7b low => Sys2Proof.Machine.execLit78to7b low s
  | .lit7cto7d low => Sys2Proof.Machine.execLit7cto7d low s
  | .lit7e => Sys2Proof.Machine.execLit7e s
  -- Reserved stream values (R68)
  | .t0Reserved b => Sys2Proof.Machine.execT0Reserved b s
  | .tbReserved b => Sys2Proof.Machine.execTbReserved b s
  -- Format FT (R79)
  | .frameUid => Sys2Proof.Machine.execFrameUid s
  | .frameUrl => Sys2Proof.Machine.execFrameUrl s
  | .frameTlm => Sys2Proof.Machine.execFrameTlm s
  -- Format AD (R69, R70)
  | .adFlags => Sys2Proof.Machine.execAdFlags s
  | .adUuid16List => Sys2Proof.Machine.execAdUuid16List s
  | .adServiceData len ftype => Sys2Proof.Machine.execAdServiceData len ftype s

end Sys2Proof.Machine
end

