-- ==== Sys2Proof/Machine/Port.lean ====
section
/-! DEFINITION. What the block is presented with next (`42_host_commands.md`): the host's reads and
writes are served at once, a CMD byte and a micro-operation are decoded into an instruction. -/

namespace Sys2Proof.Machine

/-- What a step finds at the port: something served without an instruction, or an instruction to run
in a state from which the event has been taken. -/
inductive Fetched where
  | served (o : Host.Outcome State Fault Refusal)
  | instr (i : Instr) (s : State)

/-- A micro-operation event holds the bytes of exactly one row of its format. -/
def fetchMicro (fmt : Format) (bytes : List Byte) (s : State) : Fetched :=
  match decode fmt bytes with
  | .ok (i, []) => .instr i s
  | .ok (_, _ :: _) => .served (.refused .trailingBytes)
  | .error r => .served (.refused (.undecodable r))

/-- The next event of the port: with none the block is idle and nothing changes (R167, R194). -/
def fetch (s : State) : Fetched :=
  match s.pending with
  | [] => .served (.next s)
  | .write w :: rest => .served (hostWrite w (s.setPending rest))
  | .read r :: rest => .served (hostRead r (s.setPending rest))
  | .cmd v :: rest => .instr (decodeCmd v) (s.setPending rest)
  | .reset :: rest => .served (.next (resetBlock (s.setPending rest)))
  | .micro fmt bytes :: rest => fetchMicro fmt bytes (s.setPending rest)

/-- The event that presents a word of the opcode table: a write to CMD, or a micro-operation of the
word's format (log entry 8). -/
def tableEvent (nbits w : Nat) : Event :=
  match tableFormat (tableBytes nbits w), tableBytes nbits w with
  | .cmd, [b] => .cmd b
  | fmt, bs => .micro fmt bs

end Sys2Proof.Machine
end

