-- ==== Sys2Proof/Machine/Step.lean ====
section
/-! DEFINITION. One step of the machine: one event of the port, a whole command included
(`00_scope.md` section 6, R52, R162). -/

namespace Sys2Proof.Machine

/-- Serve the next event. -/
def step (s : State) : Host.Outcome State Fault Refusal :=
  match fetch s with
  | .served o => o
  | .instr i s' => exec i s'

/-- The state with a word of the opcode table presented next (log entries 2 and 8). -/
def State.withFetchWord (s : State) (nbits w : Nat) : State :=
  s.setPending (tableEvent nbits w :: s.pending)

end Sys2Proof.Machine
end

