-- ==== Sys2Proof/Machine/Script.lean ====
section
/-! DEFINITION. The spec's script notation (`30_encoding.md` R78) and its composites
(`42_host_commands.md` R165): the host actions each line stands for, and a host that serves them one by
one. They are the host's programs, not operations of the block. SEND is outside the block (R166). -/

namespace Sys2Proof.Machine

/-- The host presents events one at a time, each after the one before it has been served (R52). -/
def serve : List Event → State → Host.Outcome State Fault Refusal
  | [], s => .next s
  | e :: es, s =>
    match step (s.setPending [e]) with
    | .next t => serve es t
    | stopped => stopped

/-- `WR reg, v` -/
def wr (w : HostWrite) : Event := .write w

/-- `RD reg` -/
def rd (r : HostRead) : Event := .read r

/-- Writes of consecutive bytes of a buffer of n bytes, as far as it reaches, from byte k on. -/
def fillFrom (n : Nat) (act : Fin n → Byte → HostWrite) : Nat → List Byte → List Event
  | _, [] => []
  | k, b :: bs => if h : k < n then wr (act ⟨k, h⟩ b) :: fillFrom n act (k + 1) bs else []

/-- The length a `LOAD_NID`, `LOAD_BID` or `LOAD_CU` line writes: len(s), for a string of at most 255 bytes.
DESIGN CHOICE (unsafe, log entry 17): for a longer one R160 has no such write and R78 does not say what the
line means; the model writes len(s) modulo 256. -/
def declaredLength (s : List Byte) : Byte := BitVec.ofNat 8 s.length

/-- Writes of consecutive bytes of URLBUF from byte k on. -/
def fillUrl : Nat → List Byte → List Event
  | _, [] => []
  | k, b :: bs => wr (.urlbuf k b) :: fillUrl (k + 1) bs

/-- `LOAD_URL "s"` -/
def loadUrl (s : List Byte) : List Event := fillUrl 0 s ++ [wr (.urllen s.length)]

/-- `LOAD_NID s`; a string of more than 255 bytes is log entry 17 (DESIGN CHOICE). -/
def loadNid (s : List Byte) : List Event :=
  fillFrom 10 .nidbuf 0 s ++ [wr (.nidlen (BitVec.ofNat 8 s.length))]

/-- `LOAD_BID s`; a string of more than 255 bytes is log entry 17 (DESIGN CHOICE). -/
def loadBid (s : List Byte) : List Event :=
  fillFrom 6 .bidbuf 0 s ++ [wr (.bidlen (BitVec.ofNat 8 s.length))]

/-- `LOAD_CU s`; a string of more than 255 bytes is log entry 17 (DESIGN CHOICE). -/
def loadCu (s : List Byte) : List Event :=
  fillFrom 18 .cu 0 s ++ [wr (.culen (BitVec.ofNat 8 s.length))]

/-- `RD FR`: the 31 bytes of FR in order -/
def rdFr : List Event := (List.finRange 31).map (fun k => rd (.fr k))

/-- `CMD ENCODE`, `CMD BUILD_UID`, `CMD BUILD_URL`, `CMD BUILD_TLM` -/
def cmdEncode : Event := .cmd 0x80#8

def cmdBuildUid : Event := .cmd 0x00#8

def cmdBuildUrl : Event := .cmd 0x10#8

def cmdBuildTlm : Event := .cmd 0x20#8

/-- A composite: stages, each ending in `RD STATUS` but the last; the host stops at the first stage
after which STATUS is not OK (R165, R204). -/
def serveStages : List (List Event) → State → Host.Outcome State Fault Refusal
  | [], s => .next s
  | stage :: rest, s =>
    match serve stage s with
    | .next t => if t.status = .ok then serveStages rest t else .next t
    | stopped => stopped

/-- `BEACON_URL tx, "s"` up to SEND (R165). -/
def beaconUrl (tx : Byte) (s : List Byte) : List (List Event) :=
  [loadUrl s ++ [cmdEncode, rd .status], [wr (.txpower tx), cmdBuildUrl, rd .status], rdFr]

/-- `BEACON_UID tx, nid, bid` up to SEND (R165); nid or bid of more than 255 bytes is log entry 17 (DESIGN
CHOICE). -/
def beaconUid (tx : Byte) (nid bid : List Byte) : List (List Event) :=
  [loadNid nid ++ loadBid bid ++ [wr (.txpower tx), cmdBuildUid, rd .status], rdFr]

/-- `BEACON_TLM adv, sec` up to SEND (R165). -/
def beaconTlm (adv sec : Counter) : List (List Event) :=
  [[wr (.advcnt adv), wr (.elapsed sec), cmdBuildTlm, rd .status], rdFr]

end Sys2Proof.Machine
end

