-- ==== Sys2Proof/Machine/Reference.lean ====
section
/-! DEFINITION. What token streams stand for and the pseudocode of ENCODE as rules, for stating
properties: `expand` (`30_encoding.md` R76, no operation of the block), and the runs of R100 to R107 as
an inductive relation that shares nothing with the function the machine uses. -/

namespace Sys2Proof.Machine

/-! ### Expansion (R76) -/

/-- `x(b)` (R76): the string a later stream byte stands for; undefined on a reserved value (U2). -/
def expandByte (b : Byte) : Option (List Byte) :=
  if b.toNat < sfxRom.length then some (romEntry sfxRom b.toNat)
  else if isLiteral b then some [b]
  else none

/-- The concatenation of `x` over the later bytes. -/
def expandLater : List Byte → Option (List Byte)
  | [] => some []
  | b :: bs =>
    match expandByte b, expandLater bs with
    | some x, some rest => some (x ++ rest)
    | _, _ => none

/-- `expand` (R76): undefined on the empty sequence and on reserved values. -/
def expand : List Byte → Option (List Byte)
  | [] => none
  | p :: bs =>
    if p.toNat < pfxRom.length then
      match expandLater bs with
      | some rest => some (romEntry pfxRom p.toNat ++ rest)
      | none => none
    else none

/-- A stream ENCODE can produce (R20, R64, R65): 1 to 18 bytes, a prefix index first, then suffix
indices and literals. -/
def streamOk : List Byte → Bool
  | [] => false
  | p :: bs =>
    decide (p.toNat ≤ 4) && decide (bs.length ≤ 17) &&
      bs.all (fun b => decide (b.toNat ≤ 13) || isLiteral b)

/-! ### The runs of ENCODE (R100) -/

/-- `matches(t, c)` as R101 words it: c + len(t) <= URLLEN and URLBUF[c+k] = t[k] for every k. -/
def Matches (url t : List Byte) (c : Nat) : Prop :=
  c + t.length ≤ url.length ∧ ∀ k < t.length, url[c + k]? = t[k]?

/-- Entry i matches at c and no entry before it does (R108). -/
def FirstAt (rom : List (List Byte)) (url : List Byte) (c i : Nat) : Prop :=
  i < rom.length ∧ Matches url (romEntry rom i) c ∧ ∀ j < i, ¬ Matches url (romEntry rom j) c

/-- No entry of the table matches at c. -/
def NoneAt (rom : List (List Byte)) (url : List Byte) (c : Nat) : Prop :=
  ∀ i < rom.length, ¬ Matches url (romEntry rom i) c

/-- The byte at c is rejected: `ch <= 0x22 or ch >= 0x7f` (R104). -/
def RejectedAt (url : List Byte) (c : Nat) : Prop :=
  ∃ ch, url[c]? = some ch ∧ (ch.toNat ≤ 0x22 ∨ 0x7f ≤ ch.toNat)

/-- The byte at c is the literal ch. -/
def LiteralAt (url : List Byte) (c : Nat) (ch : Byte) : Prop :=
  url[c]? = some ch ∧ 0x23 ≤ ch.toNat ∧ ch.toNat ≤ 0x7e

/-- What one pass of the body loop emits at cursor c: a suffix token and the cursor past the suffix, or
where none matches the literal at c and the cursor past it (R103, R104). -/
inductive Emits (url : List Byte) (c : Nat) : Byte → Nat → Prop where
  | suffix (j : Nat) (first : FirstAt sfxRom url c j) :
      Emits url c (BitVec.ofNat 8 j) (c + (romEntry sfxRom j).length)
  | literal (ch : Byte) (inside : c < url.length) (none : NoneAt sfxRom url c) (lit : LiteralAt url c ch) :
      Emits url c ch (c + 1)

/-- The body loop of R100 from cursor c with W[0..w-1] = W: its three exits (R167) and its pass. -/
inductive BodyRun (url : List Byte) : Nat → List Byte → Except ErrKind (List Byte) → Prop where
  /-- ENC.END (R106): the cursor is at the end of the input -/
  | finish (W : List Byte) : BodyRun url url.length W (.ok W)
  /-- ENC.LIT raises (R104), before the length is looked at (R107) -/
  | badCharacter (c : Nat) (W : List Byte) (inside : c < url.length) (none : NoneAt sfxRom url c)
      (bad : RejectedAt url c) : BodyRun url c W (.error .invalidCharacter)
  /-- ENC.LEN raises (R105): w = 18 -/
  | tooLong (c : Nat) (W : List Byte) (b : Byte) (c' : Nat) (emits : Emits url c b c') (full : W.length = 18) :
      BodyRun url c W (.error .tooLong)
  /-- ENC.LEN stores (R105) and the loop goes on -/
  | store (c : Nat) (W : List Byte) (b : Byte) (c' : Nat) (r : Except ErrKind (List Byte))
      (emits : Emits url c b c') (room : W.length < 18) (rest : BodyRun url c' (W ++ [b]) r) :
      BodyRun url c W r

/-- The body loop comes to cursor c with W[0..w-1] = W: the prefix token first (R102), then one stored
byte a pass (R103 to R105). -/
inductive Reached (url : List Byte) : Nat → List Byte → Prop where
  | start (p : Nat) (first : FirstAt pfxRom url 0 p) :
      Reached url (romEntry pfxRom p).length [BitVec.ofNat 8 p]
  | pass (c : Nat) (W : List Byte) (b : Byte) (c' : Nat) (before : Reached url c W) (emits : Emits url c b c')
      (room : W.length < 18) : Reached url c' (W ++ [b])

/-- The whole of R100 on an input: ENC.PFX (R102), then the body loop. -/
inductive EncodeRun (url : List Byte) : Except ErrKind (List Byte) → Prop where
  | badPrefix (none : NoneAt pfxRom url 0) : EncodeRun url (.error .invalidPrefix)
  | body (p : Nat) (r : Except ErrKind (List Byte)) (first : FirstAt pfxRom url 0 p)
      (rest : BodyRun url (romEntry pfxRom p).length [BitVec.ofNat 8 p] r) : EncodeRun url r

end Sys2Proof.Machine
end

