-- ==== Sys2Proof/Safety.lean ====
section
/-! DEFINITION. What counts as a good state and a safe run: the invariant every step keeps, and the moves
the host really has (D22). -/

namespace Sys2Proof.Machine

/-- The preamble bytes that never differ: offsets 0 to 6 and 8 to 10 (R70, R130). -/
def preambleOk (f : Frame) : Bool :=
  decide (f.toList.take 7 = [0x02#8, 0x01#8, 0x06#8, 0x03#8, 0x03#8, 0xaa#8, 0xfe#8]) &&
    decide ((f.toList.drop 8).take 3 = [0x16#8, 0xaa#8, 0xfe#8])

/-- The frame's bytes from offset a on are zero fill (R134). -/
def zeroFrom (f : Frame) (a : Nat) : Bool :=
  (f.toList.drop a).all (fun b => decide (b = 0x00#8))

/-- A frame the block can have built (R70 to R73, R79): the preamble, a frame type of the three, the
service-data length of its kind, and zero fill after its payload. -/
def frameOk (f : Frame) : Bool :=
  preambleOk f &&
    match frameTypeOf f[11] with
    | some .uid => decide (f[7] = 20#8) && zeroFrom f 29
    | some .url => serviceDataLenOk f[7] .url && zeroFrom f (9 + f[7].toNat)
    | some .tlm => decide (f[7] = 17#8) && decide ((f.toList.drop 12).take 5 = tlmFixed) && zeroFrom f 25
    | none => false

/-- FR holds 31 zero bytes before the first successful build (R206) and a frame after it (R22). -/
def frOk (f : Frame) : Bool := decide (f = zeroFrame) || frameOk f

/-- ENCODE's output so far is a stream it can produce, so w is 1 to 18 (R25, R64, R65); BUILD_URL's copy
index is at most 18 (R132). -/
def workOk : Work → Bool
  | .idle => true
  | .encoding _ out => streamOk out
  | .building _ k => decide (k ≤ 18)

/-- The invariant of the machine: URLBUF is in canonical form and inside its space (R40, R41), URLLEN is
at most URL_MAX (R12), FR is zero or a frame (R79, R206), the working variables are in range. -/
structure State.Inv (s : State) : Prop where
  canonical : s.urlbuf.wf
  inside : ∀ x ∈ s.urlbuf, x.1 < Config.urlMax
  urllen : s.urllen ≤ Config.urlMax
  frame : frOk s.fr
  work : workOk s.work

/-- A move the host really has (R160, R161, R162, D22): no index of URLBUF at or above URL_MAX, no
URLLEN above it, and no micro-operation. -/
def hostMove : Event → Bool
  | .write (.urlbuf k _) => decide (k < Config.urlMax)
  | .write (.urllen n) => decide (n ≤ Config.urlMax)
  | .read (.urlbuf k) => decide (k < Config.urlMax)
  | .micro _ _ => false
  | _ => true

/-- A state between commands whose host presents only moves it has. -/
def State.quiet (s : State) : Prop :=
  s.work = .idle ∧ ∀ e ∈ s.pending, hostMove e

/-! ### The terms claims use -/

/-- Instructions run one after the other. -/
def execAll : List Instr → State → Host.Outcome State Fault Refusal
  | [], s => .next s
  | i :: is, s =>
    match exec i s with
    | .next t => execAll is t
    | stopped => stopped

/-- The five rows of format CMD: what the host can make the block run (R61, R62). -/
def isCommand (i : Instr) : Bool := decide (formatOf i = .cmd)

/-- The prefix rows with their table index (R66). -/
def prefixRows : List (Instr × Nat) := [(.pfx0, 0), (.pfx1, 1), (.pfx2, 2), (.pfx3, 3), (.pfx4, 4)]

/-- The suffix rows with their table index (R67). -/
def suffixRows : List (Instr × Nat) :=
  [(.sfx0, 0), (.sfx1, 1), (.sfx2, 2), (.sfx3, 3), (.sfx4, 4), (.sfx5, 5), (.sfx6, 6),
   (.sfx7, 7), (.sfx8, 8), (.sfx9, 9), (.sfx10, 10), (.sfx11, 11), (.sfx12, 12), (.sfx13, 13)]

/-- The literal rows with the byte each stands for: the block's first value plus the free low bits. -/
inductive LiteralRow : Instr → Byte → Prop where
  | lit23 : LiteralRow .lit23 0x23#8
  | lit24to27 (low : BitVec 2) : LiteralRow (.lit24to27 low) (0x24#8 + low.setWidth 8)
  | lit28to2f (low : BitVec 3) : LiteralRow (.lit28to2f low) (0x28#8 + low.setWidth 8)
  | lit30to3f (low : BitVec 4) : LiteralRow (.lit30to3f low) (0x30#8 + low.setWidth 8)
  | lit40to5f (low : BitVec 5) : LiteralRow (.lit40to5f low) (0x40#8 + low.setWidth 8)
  | lit60to6f (low : BitVec 4) : LiteralRow (.lit60to6f low) (0x60#8 + low.setWidth 8)
  | lit70to77 (low : BitVec 3) : LiteralRow (.lit70to77 low) (0x70#8 + low.setWidth 8)
  | lit78to7b (low : BitVec 2) : LiteralRow (.lit78to7b low) (0x78#8 + low.setWidth 8)
  | lit7cto7d (low : BitVec 1) : LiteralRow (.lit7cto7d low) (0x7c#8 + low.setWidth 8)
  | lit7e : LiteralRow .lit7e 0x7e#8

/-- The registers the block never writes (R10's "never" rows: URLBUF, URLLEN, TXPOWER, NIDBUF, NIDLEN,
BIDBUF, BIDLEN, ADVCNT, ELAPSED) and the host's side of the port are the same in both states. -/
structure SameOperands (s t : State) : Prop where
  bytes : ∀ k, t.urlbuf.read k = s.urlbuf.read k
  urlbuf : t.urlbuf = s.urlbuf
  urllen : t.urllen = s.urllen
  txpower : t.txpower = s.txpower
  nidbuf : t.nidbuf = s.nidbuf
  nidlen : t.nidlen = s.nidlen
  bidbuf : t.bidbuf = s.bidbuf
  bidlen : t.bidlen = s.bidlen
  advcnt : t.advcnt = s.advcnt
  elapsed : t.elapsed = s.elapsed
  pending : t.pending = s.pending
  replies : t.replies = s.replies

/-- The register or byte a host write goes to. -/
def writeTarget : HostWrite → HostRead
  | .urlbuf k _ => .urlbuf k
  | .urllen _ => .urllen
  | .txpower _ => .txpower
  | .nidbuf k _ => .nidbuf k
  | .nidlen _ => .nidlen
  | .bidbuf k _ => .bidbuf k
  | .bidlen _ => .bidlen
  | .advcnt _ => .advcnt
  | .elapsed _ => .elapsed
  | .cu k _ => .cu k
  | .culen _ => .culen

/-- The value a host write gives. -/
def writeValue : HostWrite → Reply
  | .urlbuf _ v => .byte v
  | .urllen n => .count n
  | .txpower v => .byte v
  | .nidbuf _ v => .byte v
  | .nidlen v => .byte v
  | .bidbuf _ v => .byte v
  | .bidlen v => .byte v
  | .advcnt v => .counter v
  | .elapsed v => .counter v
  | .cu _ v => .byte v
  | .culen v => .byte v

end Sys2Proof.Machine
end

