-- ==== Sys2Proof/Certificates/Slice0/Obligations.lean ====
section
/-! DEFINITION. The statements for the provers, from the spec's numbered rules. Where a clause rests on a
decision the spec marks as its own (D1 to D24) or on a log entry of the model, the docstring says so. -/

open Sys2Proof Sys2Proof.Machine

/-! ### Reset -/

/-- `70_reset_and_hazards.md` section 1: every register after reset. The values are the spec's decision
D7 ("[decision: see 92_eei_decisions.md D7]"). -/
def Obligations.ResetLeavesEveryRegisterZero : Prop :=
  (∀ k, readValue (.urlbuf k) State.reset = .byte 0x00#8) ∧ readValue .urllen State.reset = .count 0 ∧
  readValue .txpower State.reset = .byte 0x00#8 ∧
  (∀ k, readValue (.nidbuf k) State.reset = .byte 0x00#8) ∧ readValue .nidlen State.reset = .byte 0#8 ∧
  (∀ k, readValue (.bidbuf k) State.reset = .byte 0x00#8) ∧ readValue .bidlen State.reset = .byte 0#8 ∧
  readValue .advcnt State.reset = .counter 0#32 ∧ readValue .elapsed State.reset = .counter 0#32 ∧
  (∀ k, readValue (.cu k) State.reset = .byte 0x00#8) ∧ readValue .culen State.reset = .byte 0#8 ∧
  (∀ k, readValue (.fr k) State.reset = .byte 0x00#8) ∧ readValue .status State.reset = .byte 0x00#8 ∧
  State.reset.work = .idle

/-- A reset puts every register at its reset value and the block idle from any state (R200, R202: decisions
D7, D19). That what the host presents and has read stays is the model's choice (log entry 13). -/
def Obligations.ResetEventRestoresEveryRegister : Prop :=
  ∀ (s : State) (rest : List Event), s.pending = .reset :: rest →
    ∃ t, step s = .next t ∧ (∀ r, readValue r t = readValue r State.reset) ∧ t.work = .idle ∧
      t.pending = rest ∧ t.replies = s.replies

/-- What each command does straight after reset (`70_reset_and_hazards.md` section 1, vectors Z4 to Z7; the
reset values are decision D7, the codes D2 and D4, the accepted empty stream D17). -/
def Obligations.CommandsOnTheResetState : Prop :=
  (∃ t, exec .encode State.reset = .next t ∧ t.status = .err .invalidPrefix) ∧
  (∃ t, exec .buildUid State.reset = .next t ∧ t.status = .err .invalidLength) ∧
  (∃ t, exec .buildUrl State.reset = .next t ∧ t.status = .ok ∧ t.fr[7] = 4#8) ∧
  (∃ t, exec .buildTlm State.reset = .next t ∧ t.status = .ok ∧ t.fr[11] = 0x20#8)

/-! ### Steps and dispatch -/

/-- A byte written to CMD, and a micro-operation's bytes, run as the instruction they decode to, in the
state from which the event has been taken off the port (R162; the port is log entries 2 and 4). -/
def Obligations.StepRunsTheDecodedInstruction : Prop :=
  ∀ (s : State) (rest : List Event),
    (∀ v i, s.pending = .cmd v :: rest → decode .cmd [v] = .ok (i, []) →
      step s = exec i (s.setPending rest)) ∧
    (∀ fmt bytes i, s.pending = .micro fmt bytes :: rest → decode fmt bytes = .ok (i, []) →
      step s = exec i (s.setPending rest))

/-- With nothing presented the block is idle and keeps all its registers (`42_host_commands.md` section 6,
`60_exceptions.md` section 10; that an idle step changes nothing is log entry 9). -/
def Obligations.NothingPresentedNothingChanges : Prop :=
  ∀ s : State, s.pending = [] → step s = .next s

/-- The command byte alone selects what runs, all eight bits compared (`30_encoding.md` section 1, vectors
K1 to K6; the codes are the spec's decision D2). -/
def Obligations.CommandByteSelectsTheCommand : Prop :=
  ∀ (v : Byte) (s : State) (rest : List Event), s.pending = .cmd v :: rest →
    step s = exec (if v = 0x80#8 then .encode else if v = 0x00#8 then .buildUid
      else if v = 0x10#8 then .buildUrl else if v = 0x20#8 then .buildTlm else .cmdReserved v)
      (s.setPending rest)

/-- A reserved command code sets STATUS to BadCommand, code 5, and changes no register else (`42_host_commands.md`
section 2: the spec's decision D4); the working variables have no value afterwards. -/
def Obligations.ReservedCommandOnlySetsStatus : Prop :=
  ∀ (c : Byte) (s : State),
    exec (.cmdReserved c) s = .next { s with status := .err .badCommand, work := .idle } ∧
    statusByte (.err .badCommand) = 5#8

/-- The byte the host reads from STATUS, for each of the six result kinds: CODE in bits 2:0 and bits 7:3 zero
(R23, R63, R180). The numbers are the spec's decision D4; that STATUS is held as a kind is log entry 12. -/
def Obligations.StatusByteIsTheCodeOfTheKind : Prop :=
  ∀ s : State,
    (s.status = .ok → readValue .status s = .byte 0x00#8) ∧
    (s.status = .err .invalidPrefix → readValue .status s = .byte 0x01#8) ∧
    (s.status = .err .invalidCharacter → readValue .status s = .byte 0x02#8) ∧
    (s.status = .err .tooLong → readValue .status s = .byte 0x03#8) ∧
    (s.status = .err .invalidLength → readValue .status s = .byte 0x04#8) ∧
    (s.status = .err .badCommand → readValue .status s = .byte 0x05#8) ∧
    ∃ b : Byte, readValue .status s = .byte b ∧ b.extractLsb' 3 5 = 0#5

/-- STATUS is not sticky and dispatch looks at nothing but the byte: an earlier result does not change what a
command does (`60_exceptions.md` section 4, R141, decision D4). Nor do leftover working variables: c, w, W
and F have no value between commands (R24, R25, R29), and that a command starts afresh whatever the model's
`work` holds is log entry 5 (DESIGN CHOICE; R115 and R134 are its ground). -/
def Obligations.CommandsIgnoreEarlierResults : Prop :=
  ∀ (i : Instr) (s : State) (r : ResultKind) (w : Work), isCommand i = true →
    exec i { s with status := r, work := w } = exec i s

/-- A command that ends in an error writes STATUS and nothing else (`60_exceptions.md` section 3: that CU,
CULEN and FR keep their values is the spec's decision D5). -/
def Obligations.FailedCommandChangesStatusOnly : Prop :=
  ∀ (i : Instr) (s : State), isCommand i = true →
    ∃ t, exec i s = .next t ∧ t.work = .idle ∧
      ∀ k, t.status = .err k → t = { s with status := .err k, work := .idle }

/-- No command writes an operand register or what the host presents and has read; only ENCODE writes CU
and CULEN, only a builder FR (`10_state.md` section 1, `95_test_vectors.md` section 5 law 9). -/
def Obligations.CommandsKeepOperandRegisters : Prop :=
  ∀ (i : Instr) (s : State), isCommand i = true →
    ∃ t, exec i s = .next t ∧ SameOperands s t ∧
      (i ≠ .encode → t.cu = s.cu ∧ t.culen = s.culen) ∧
      (i ≠ .buildUid → i ≠ .buildUrl → i ≠ .buildTlm → t.fr = s.fr)

/-! ### The Frame Builder -/

/-- BUILD_UID with lengths 10 and 6 (R131): the whole frame, byte by byte, and nothing else written. The
two zero bytes at the end are the spec's decision D11. -/
def Obligations.BuildUidWritesTheUidFrame : Prop :=
  ∀ s : State, s.nidlen = 10#8 → s.bidlen = 6#8 →
    ∃ t, exec .buildUid s = .next t ∧
      t.fr.toList = [0x02#8, 0x01#8, 0x06#8, 0x03#8, 0x03#8, 0xaa#8, 0xfe#8, 0x14#8, 0x16#8, 0xaa#8, 0xfe#8,
        0x00#8, s.txpower] ++ s.nidbuf.toList ++ s.bidbuf.toList ++ [0x00#8, 0x00#8] ∧
      t = { s with fr := t.fr, status := .ok, work := .idle }

/-- R184: InvalidLength is raised by BUILD_UID exactly when NIDLEN is not 10 or BIDLEN is not 6. -/
def Obligations.InvalidLengthExactlyOnWrongLengths : Prop :=
  ∀ s : State, ∃ t, exec .buildUid s = .next t ∧
    (t.status = .err .invalidLength ↔ s.nidlen ≠ 10#8 ∨ s.bidlen ≠ 6#8)

/-- BUILD_URL with CULEN at most 18 (R132): the whole frame, CU[0..CULEN-1] at offset 13, zero fill behind,
and nothing else written. That CULEN = 0 is accepted is the spec's decision D17. -/
def Obligations.BuildUrlWritesTheUrlFrame : Prop :=
  ∀ s : State, s.culen.toNat ≤ 18 →
    ∃ t, exec .buildUrl s = .next t ∧
      t.fr.toList = [0x02#8, 0x01#8, 0x06#8, 0x03#8, 0x03#8, 0xaa#8, 0xfe#8, BitVec.ofNat 8 (4 + s.culen.toNat),
        0x16#8, 0xaa#8, 0xfe#8, 0x10#8, s.txpower] ++ s.cu.toList.take s.culen.toNat ++
        List.replicate (18 - s.culen.toNat) 0x00#8 ∧
      t = { s with fr := t.fr, status := .ok, work := .idle }

/-- BUILD_URL answers TooLong exactly when CULEN is above 18 (R132, R183 b; the kind is the spec's
decision D10). -/
def Obligations.BuildUrlTooLongExactlyAboveEighteen : Prop :=
  ∀ s : State, ∃ t, exec .buildUrl s = .next t ∧ (t.status = .err .tooLong ↔ 18 < s.culen.toNat)

/-- BUILD_TLM always succeeds (R133): the whole frame, the counters most significant byte first, and
nothing else written. The fixed sub-fields' offsets are the spec's decision D12, the fill D11. -/
def Obligations.BuildTlmWritesTheTlmFrame : Prop :=
  ∀ s : State, ∃ t, exec .buildTlm s = .next t ∧
    t.fr.toList = [0x02#8, 0x01#8, 0x06#8, 0x03#8, 0x03#8, 0xaa#8, 0xfe#8, 0x11#8, 0x16#8, 0xaa#8, 0xfe#8, 0x20#8,
      0x00#8, 0x00#8, 0x00#8, 0x80#8, 0x00#8,
      s.advcnt.extractLsb' 24 8, s.advcnt.extractLsb' 16 8, s.advcnt.extractLsb' 8 8, s.advcnt.extractLsb' 0 8,
      s.elapsed.extractLsb' 24 8, s.elapsed.extractLsb' 16 8, s.elapsed.extractLsb' 8 8, s.elapsed.extractLsb' 0 8] ++
      List.replicate 6 0x00#8 ∧
    t = { s with fr := t.fr, status := .ok, work := .idle }

/-- The counters can be read back from the frame by joining four bytes most significant first, ELAPSED in
raw seconds as it was given (`20_memory.md` section 2, `41_frame_builder.md` section 3; offsets 17 and 21
are the spec's decision D12). -/
def Obligations.TlmCountersReadBackFromTheFrame : Prop :=
  ∀ s : State, ∃ t, exec .buildTlm s = .next t ∧
    t.fr[17] ++ t.fr[18] ++ t.fr[19] ++ t.fr[20] = s.advcnt ∧
    t.fr[21] ++ t.fr[22] ++ t.fr[23] ++ t.fr[24] = s.elapsed

/-- R43: the UUID 0xFEAA stands low byte first at offsets 5, 6 and 9, 10 of every frame a builder writes. -/
def Obligations.UuidStandsLowByteFirstTwice : Prop :=
  ∀ (i : Instr) (s : State), i = .buildUid ∨ i = .buildUrl ∨ i = .buildTlm →
    ∃ t, exec i s = .next t ∧ (t.status = .ok →
      t.fr[5] = (0xfeaa#16).extractLsb' 0 8 ∧ t.fr[6] = (0xfeaa#16).extractLsb' 8 8 ∧
      t.fr[9] = (0xfeaa#16).extractLsb' 0 8 ∧ t.fr[10] = (0xfeaa#16).extractLsb' 8 8 ∧
      t.fr[5] = 0xaa#8 ∧ t.fr[6] = 0xfe#8 ∧ t.fr[9] = 0xaa#8 ∧ t.fr[10] = 0xfe#8)

/-- R135: a build is a pure function of the operand registers its rule names, writes all of FR on success,
and writes only FR and STATUS. -/
def Obligations.BuildersArePureInTheirOperands : Prop :=
  ∀ (i : Instr) (s₁ s₂ : State),
    (i = .buildUid ∧ s₁.txpower = s₂.txpower ∧ s₁.nidbuf = s₂.nidbuf ∧ s₁.nidlen = s₂.nidlen ∧
        s₁.bidbuf = s₂.bidbuf ∧ s₁.bidlen = s₂.bidlen) ∨
      (i = .buildUrl ∧ s₁.txpower = s₂.txpower ∧ s₁.cu = s₂.cu ∧ s₁.culen = s₂.culen) ∨
      (i = .buildTlm ∧ s₁.advcnt = s₂.advcnt ∧ s₁.elapsed = s₂.elapsed) →
    ∃ t₁ t₂, exec i s₁ = .next t₁ ∧ exec i s₂ = .next t₂ ∧ t₁.status = t₂.status ∧
      (t₁.status = .ok → t₁.fr = t₂.fr) ∧
      t₁ = { s₁ with fr := t₁.fr, status := t₁.status, work := .idle } ∧
      t₂ = { s₂ with fr := t₂.fr, status := t₂.status, work := .idle }

/-- The length invariant of UID and URL frames, byte 7 = 3 + payload, and its TLM exception: 17, not 16
(`41_frame_builder.md` section 3, conflict C2; the TLM payload of 13 bytes is decision D12). -/
def Obligations.ServiceDataLengthCountsThePayload : Prop :=
  ∀ s : State,
    (∃ t, exec .buildUid s = .next t ∧ (t.status = .ok → t.fr[7].toNat = 3 + (1 + 10 + 6))) ∧
    (∃ t, exec .buildUrl s = .next t ∧ (t.status = .ok → t.fr[7].toNat = 3 + (1 + s.culen.toNat))) ∧
    (∃ t, exec .buildTlm s = .next t ∧ t.fr[7].toNat = 17)

/-! ### ENCODE -/

/-- ENCODE's result is the pseudocode's (R100 to R107): the run of the pseudocode on the input exists, is the
only one, and the command ends as it says. The zero fill of CU is the spec's decision D6, what a failure
leaves D5. -/
def Obligations.EncodeFollowsThePseudocode : Prop :=
  ∀ s : State, ∃ r, EncodeRun s.url r ∧ (∀ r', EncodeRun s.url r' → r' = r) ∧
    (∀ k, r = .error k → exec .encode s = .next { s with status := .err k, work := .idle }) ∧
    (∀ out, r = .ok out → ∃ t, exec .encode s = .next t ∧ t.culen.toNat = out.length ∧ out.length ≤ 18 ∧
      t.cu.toList = out ++ List.replicate (18 - out.length) 0x00#8 ∧
      t = { s with cu := t.cu, culen := t.culen, status := .ok, work := .idle })

/-- A URL that fits is encoded: where the pseudocode's run ends with an output, ENCODE completes with it
in CU and CULEN (R100, R106; the zero fill is decision D6). -/
def Obligations.EncodeCompletesWithTheOutput : Prop :=
  ∀ (s : State) (out : List Byte), EncodeRun s.url (.ok out) →
    ∃ t, exec .encode s = .next t ∧ t.status = .ok ∧ t.stream = out ∧ t.culen.toNat = out.length

/-- R181: InvalidPrefix is raised exactly when none of the five prefixes matches at position 0, which includes
every URL shorter than 7 bytes. -/
def Obligations.InvalidPrefixExactlyWithoutScheme : Prop :=
  ∀ s : State, ∃ t, exec .encode s = .next t ∧
    (t.status = .err .invalidPrefix ↔ ∀ i < 5, ¬ Matches s.url (romEntry pfxRom i) 0) ∧
    (s.urllen < 7 → t.status = .err .invalidPrefix)

/-- R182: InvalidCharacter is raised exactly when the scan comes to a body position where no suffix matches and
the byte is at most 0x22 or at least 0x7f; such a position is never inside the prefix. -/
def Obligations.InvalidCharacterExactlyAtARejectedBodyByte : Prop :=
  ∀ s : State, ∃ t, exec .encode s = .next t ∧
    (t.status = .err .invalidCharacter ↔
      ∃ c W, Reached s.url c W ∧ c < s.url.length ∧ NoneAt sfxRom s.url c ∧ RejectedAt s.url c) ∧
    (∀ c W p, Reached s.url c W → FirstAt pfxRom s.url 0 p → (romEntry pfxRom p).length ≤ c)

/-- ENCODE answers TooLong exactly at the emission that would be the 19th output byte (R105, R183 a); the
character check comes first (R107). -/
def Obligations.TooLongExactlyAtTheNineteenthByte : Prop :=
  ∀ s : State, ∃ t, exec .encode s = .next t ∧
    (t.status = .err .tooLong ↔ ∃ c W b c', Reached s.url c W ∧ W.length = 18 ∧ Emits s.url c b c')

/-- R115: ENCODE is a function of URLBUF[0..URLLEN-1] alone, writes only CU, CULEN and STATUS, and run again on
the same input gives the same result. -/
def Obligations.EncodeIsPureInTheUrl : Prop :=
  ∀ s₁ s₂ : State, s₁.url = s₂.url →
    ∃ t₁ t₂, exec .encode s₁ = .next t₁ ∧ exec .encode s₂ = .next t₂ ∧ t₁.status = t₂.status ∧
      (t₁.status = .ok → t₁.cu = t₂.cu ∧ t₁.culen = t₂.culen) ∧
      t₁ = { s₁ with cu := t₁.cu, culen := t₁.culen, status := t₁.status, work := .idle } ∧
      exec .encode t₁ = .next t₁

/-- What a successful ENCODE leaves is a token stream: 1 to 18 bytes, a prefix index, then suffix indices
and literals, then zeros (`40_url_token_codec.md` section 6, property a; zeros by decision D6). -/
def Obligations.EncodeOutputIsATokenStream : Prop :=
  ∀ s : State, ∃ t, exec .encode s = .next t ∧ (t.status = .ok →
    1 ≤ t.culen.toNat ∧ t.culen.toNat ≤ 18 ∧ t.cu[0].toNat ≤ 4 ∧
    ∀ k : Fin 18, (0 < k.val → k.val < t.culen.toNat → t.cu[k].toNat ≤ 0x0d ∨ isLiteral t.cu[k] = true) ∧
      (t.culen.toNat ≤ k.val → t.cu[k] = 0x00#8))

/-- A URL that starts with a known prefix and whose other bytes all lie in 0x23 to 0x7e is encoded or too
long (`40_url_token_codec.md` section 6, property b; conflict C3). -/
def Obligations.PrintableUrlIsEncodedOrTooLong : Prop :=
  ∀ (s : State) (p : Nat), p < 5 → Matches s.url (romEntry pfxRom p) 0 →
    (∀ c b, (romEntry pfxRom p).length ≤ c → s.url[c]? = some b → isLiteral b = true) →
    ∃ t, exec .encode s = .next t ∧ (t.status = .ok ∨ t.status = .err .tooLong)

/-- No URL longer than 114 bytes can be encoded (`40_url_token_codec.md` section 6). -/
def Obligations.NoUrlAbove114BytesIsEncoded : Prop :=
  ∀ s : State, 114 < s.urllen → ∃ t, exec .encode s = .next t ∧ t.status ≠ .ok

/-- Expanding what a successful ENCODE leaves gives back the input (`40_url_token_codec.md` section 6). -/
def Obligations.ExpandInvertsEncode : Prop :=
  ∀ s : State, ∃ t, exec .encode s = .next t ∧ (t.status = .ok → expand t.stream = some s.url)

/-- ENCODE then BUILD_URL: the URL can be recovered from the frame alone, its stream being FR[13] to
FR[8 + FR[7]] (`30_encoding.md` section 2, `95_test_vectors.md` section 5 law 10). -/
def Obligations.UrlRecoversFromTheBuiltFrame : Prop :=
  ∀ s : State, ∃ t, exec .encode s = .next t ∧ (t.status = .ok →
    ∃ u, exec .buildUrl t = .next u ∧ u.status = .ok ∧
      expand ((u.fr.toList.drop 13).take (u.fr[7].toNat - 4)) = some s.url)

/-- R108: a table is searched in index order and the first match wins, and whenever two entries match at one
position the one of lower index is the other followed by more bytes. -/
def Obligations.FirstMatchIsTheLongestMatch : Prop :=
  ∀ (rom : List (List Byte)) (url : List Byte) (c i j : Nat), rom = pfxRom ∨ rom = sfxRom →
    firstMatch rom url c = some i → j < rom.length → Matches url (romEntry rom j) c →
    Matches url (romEntry rom i) c ∧ i ≤ j ∧
      (i ≠ j → ∃ more, more ≠ [] ∧ romEntry rom i = romEntry rom j ++ more)

/-- A failed ENCODE leaves the previous compressed URL in place: BUILD_URL then builds the very frame it
would have built before (`70_reset_and_hazards.md` section 3, resting on decision D5). -/
def Obligations.FailedEncodeLeavesTheOldStream : Prop :=
  ∀ (s t : State) (k : ErrKind), exec .encode s = .next t → t.status = .err k →
    ∃ u, exec .buildUrl t = .next u ∧ exec .buildUrl s = .next u

/-! ### The stream and layout rows: micro-operations (log entries 4 to 7) -/

/-- PFX.0 to PFX.4 where ENC.PFX emits that token (R102): W = the index, the cursor past the prefix. -/
def Obligations.PrefixRowsEmitTheMatchedPrefix : Prop :=
  ∀ (i : Instr) (p : Nat) (s : State), (i, p) ∈ prefixRows → s.work = .idle → FirstAt pfxRom s.url 0 p →
    exec i s = .next { s with work := .encoding (romEntry pfxRom p).length [BitVec.ofNat 8 p] }

/-- PFX.0 to PFX.4 elsewhere: InvalidPrefix where no prefix matches; nothing where another one does, and
nothing once ENCODE is past its prefix (R102; that another row's byte changes nothing is log entry 4). -/
def Obligations.PrefixRowsElsewhere : Prop :=
  ∀ (i : Instr) (p : Nat) (s : State), (i, p) ∈ prefixRows →
    (s.work = .idle → NoneAt pfxRom s.url 0 →
      exec i s = .next { s with status := .err .invalidPrefix, work := .idle }) ∧
    (∀ q, s.work = .idle → FirstAt pfxRom s.url 0 q → q ≠ p → exec i s = .next s) ∧
    (∀ c out, s.work = .encoding c out → exec i s = .next s)

/-- SFX.0 to SFX.13 where ENC.SFX emits that token (R103, R105): stored while there is room, TooLong at 18. -/
def Obligations.SuffixRowsEmitTheMatchedSuffix : Prop :=
  ∀ (i : Instr) (j c : Nat) (out : List Byte) (s : State), (i, j) ∈ suffixRows → s.work = .encoding c out →
    FirstAt sfxRom s.url c j →
    (out.length ≠ 18 → exec i s = .next { s with
      work := .encoding (c + (romEntry sfxRom j).length) (out ++ [BitVec.ofNat 8 j]) }) ∧
    (out.length = 18 → exec i s = .next { s with status := .err .tooLong, work := .idle })

/-- SFX.0 to SFX.13 elsewhere (log entry 4): nothing where another entry is the first match, where none matches
(R103 raises nothing of its own; the byte is then ENC.LIT's), at the end of the input, or in an idle block. -/
def Obligations.SuffixRowsElsewhere : Prop :=
  ∀ (i : Instr) (j : Nat) (s : State), (i, j) ∈ suffixRows →
    (∀ c out j', s.work = .encoding c out → FirstAt sfxRom s.url c j' → j' ≠ j → exec i s = .next s) ∧
    (∀ c out, s.work = .encoding c out → NoneAt sfxRom s.url c → exec i s = .next s) ∧
    (∀ c out, s.work = .encoding c out → s.url.length ≤ c → exec i s = .next s) ∧
    (s.work = .idle → exec i s = .next s)

/-- The ten literal rows where ENC.LIT emits that byte (R104, R105): stored while there is room, TooLong at
18. -/
def Obligations.LiteralRowsEmitTheByteAtTheCursor : Prop :=
  ∀ (i : Instr) (ch : Byte) (c : Nat) (out : List Byte) (s : State), LiteralRow i ch →
    s.work = .encoding c out → NoneAt sfxRom s.url c → s.url[c]? = some ch →
    (out.length ≠ 18 → exec i s = .next { s with work := .encoding (c + 1) (out ++ [ch]) }) ∧
    (out.length = 18 → exec i s = .next { s with status := .err .tooLong, work := .idle })

/-- The ten literal rows elsewhere: InvalidCharacter where the byte at the cursor is rejected (R104), whatever
the output's length (R107); nothing where the byte there is another literal, a suffix matches, the input
is at its end, or no command runs (log entry 4). -/
def Obligations.LiteralRowsElsewhere : Prop :=
  ∀ (i : Instr) (ch : Byte) (s : State), LiteralRow i ch →
    (∀ c out, s.work = .encoding c out → NoneAt sfxRom s.url c → RejectedAt s.url c →
      exec i s = .next { s with status := .err .invalidCharacter, work := .idle }) ∧
    (∀ c out b, s.work = .encoding c out → NoneAt sfxRom s.url c → LiteralAt s.url c b → b ≠ ch →
      exec i s = .next s) ∧
    (∀ c out j, s.work = .encoding c out → FirstAt sfxRom s.url c j → exec i s = .next s) ∧
    (∀ c out, s.work = .encoding c out → s.url.length ≤ c → exec i s = .next s) ∧
    (s.work = .idle → exec i s = .next s)

/-- T0.RESERVED and TB.RESERVED: where BUILD_URL copies that byte it goes into the frame as it is, and no other
byte of the frame changes (R68, R132); in an idle block and while ENCODE runs, which never produces such a
byte (R68), they change nothing. That this is the rows' meaning is log entry 7; for a build that copies
another byte next, see `Obligations.StreamRowsAreCopiedUnexamined`. -/
def Obligations.ReservedStreamBytesAreCopied : Prop :=
  ∀ (s : State) (b : Byte),
    (∀ (f : Frame) (k : Nat), s.work = .building f k → f[11] = 0x10#8 → k < s.culen.toNat → s.cu[k]? = some b →
      ∃ g : Frame, g[13 + k]? = some b ∧ (∀ j, j ≠ 13 + k → g[j]? = f[j]?) ∧
        (k = 0 → exec (.t0Reserved b) s = .next { s with work := .building g 1 }) ∧
        (0 < k → exec (.tbReserved b) s = .next { s with work := .building g (k + 1) })) ∧
    ((s.work = .idle ∨ ∃ c out, s.work = .encoding c out) →
      exec (.t0Reserved b) s = .next s ∧ exec (.tbReserved b) s = .next s)

/-- Every stream row, reserved or not, while a frame is being built: where BUILD_URL copies its byte, that byte
goes into the frame unexamined (R132, R139, decision D17); where it is not the byte to copy next (a T0 row
behind position 0, a TB row at position 0, a frame that is no URL frame, k at CULEN or above, another byte
in CU[k]), nothing changes. That rows run on their own is log entry 4. -/
def Obligations.StreamRowsAreCopiedUnexamined : Prop :=
  ∀ (i : Instr) (s : State) (f : Frame) (b : Byte) (k : Nat), encode i = [b] →
    formatOf i = .t0 ∨ formatOf i = .tb → s.work = .building f k →
    ((formatOf i = .t0 ↔ k = 0) → f[11] = 0x10#8 → k < s.culen.toNat → s.cu[k]? = some b →
      ∃ g : Frame, g[13 + k]? = some b ∧ (∀ j, j ≠ 13 + k → g[j]? = f[j]?) ∧
        exec i s = .next { s with work := .building g (k + 1) }) ∧
    ((formatOf i = .t0 ∧ 0 < k) ∨ (formatOf i = .tb ∧ k = 0) ∨ f[11] ≠ 0x10#8 ∨ s.culen.toNat ≤ k ∨
        s.cu[k]? ≠ some b → exec i s = .next s)

/-- FRAME.UID, FRAME.URL and FRAME.TLM lay out the frame that the build command of the same type writes to
FR, and write neither FR nor STATUS (R71 to R73, R134; the rows' meaning is log entry 6). -/
def Obligations.FrameRowsLayOutTheBuiltFrame : Prop :=
  ∀ s : State, (∀ c out, s.work ≠ .encoding c out) →
    (s.nidlen = 10#8 → s.bidlen = 6#8 → ∃ f t, exec .frameUid s = .next { s with work := .building f 0 } ∧
      exec .buildUid s = .next t ∧ t.fr = f ∧ f[11] = 0x00#8) ∧
    (s.culen.toNat ≤ 18 → ∃ f t, exec .frameUrl s = .next { s with work := .building f s.culen.toNat } ∧
      exec .buildUrl s = .next t ∧ t.fr = f ∧ f[11] = 0x10#8) ∧
    (∃ f t, exec .frameTlm s = .next { s with work := .building f 0 } ∧
      exec .buildTlm s = .next t ∧ t.fr = f ∧ f[11] = 0x20#8)

/-- The rows of formats FT and AD elsewhere: FRAME.UID and FRAME.URL raise what their builder's precondition
raises (R184, R132 with decision D10), and while ENCODE runs all six change nothing, because the two units
never run at the same time (R4; log entry 6). -/
def Obligations.FrameAndAdRowsElsewhere : Prop :=
  ∀ s : State,
    ((∀ c out, s.work ≠ .encoding c out) →
      (s.nidlen ≠ 10#8 ∨ s.bidlen ≠ 6#8 →
        exec .frameUid s = .next { s with status := .err .invalidLength, work := .idle }) ∧
      (18 < s.culen.toNat → exec .frameUrl s = .next { s with status := .err .tooLong, work := .idle })) ∧
    (∀ i c out, s.work = .encoding c out → formatOf i = .ft ∨ formatOf i = .ad → exec i s = .next s)

/-- R130: PRE(sdlen, ftype), the three AD rows in order, writes offsets 0 to 11 of the working frame and leaves
every other byte; it is not a command and no byte written to CMD issues any part of it. -/
def Obligations.PreambleIsTheThreeAdRows : Prop :=
  (∀ (s : State) (f : Frame) (k : Nat) (sdlen : Byte) (ft : FrameType), s.work = .building f k →
    ∃ g : Frame, execAll [.adFlags, .adUuid16List, .adServiceData sdlen ft] s =
        .next { s with work := .building g k } ∧
      g.toList = [0x02#8, 0x01#8, 0x06#8, 0x03#8, 0x03#8, 0xaa#8, 0xfe#8, sdlen, 0x16#8, 0xaa#8, 0xfe#8, ft.byte] ++
        f.toList.drop 12) ∧
  (∀ v rest, ∃ i, decode .cmd (v :: rest) = .ok (i, rest) ∧ formatOf i = .cmd)

/-- Each AD row writes its own bytes at its own offsets and no others, into a fresh zero frame when no build
has begun (R69, R70, R134; log entry 6). -/
def Obligations.AdRowsWriteTheirOwnBytes : Prop :=
  ∀ (i : Instr) (s : State) (a : Nat), (i = .adFlags ∧ a = 0) ∨ (i = .adUuid16List ∧ a = 3) ∨
      (∃ l ft, i = .adServiceData l ft ∧ a = 7) →
    ∀ (f : Frame) (k : Nat), s.work = .building f k ∨ (s.work = .idle ∧ f = Vector.replicate 31 0x00#8 ∧ k = 0) →
    ∃ g : Frame, exec i s = .next { s with work := .building g k } ∧
      g.toList = f.toList.take a ++ encode i ++ f.toList.drop (a + (encode i).length)

/-- The rows that are no command change nothing but the working variables and, where their micro-operation
raises, STATUS: their frame (log entries 4 to 7). -/
def Obligations.MicroRowsTouchOnlyWorkAndStatus : Prop :=
  ∀ (i : Instr) (s : State), isCommand i = false →
    ∃ t, exec i s = .next t ∧ SameOperands s t ∧ t.cu = s.cu ∧ t.culen = s.culen ∧ t.fr = s.fr ∧
      (t.status = s.status ∨ (t.work = .idle ∧ ∃ k, t.status = .err k ∧ k ≠ .badCommand))

/-- ENCODE is its micro-operations (the opening of `40_url_token_codec.md`: "The two descriptions are the same
algorithm"): the rows of the bytes a successful ENCODE emits, run one after the other from an idle block,
leave the cursor at the end of the input and W holding the output. That a row runs one micro-operation on
its own is log entry 4. -/
def Obligations.EncodeIsItsMicroOperations : Prop :=
  ∀ s : State, s.work = .idle → ∃ t, exec .encode s = .next t ∧ (t.status = .ok →
    execAll (decodeStream t.stream) s = .next { s with work := .encoding s.urllen t.stream })

/-- BUILD_URL is its micro-operations (R132 with R130 and R68): the three AD rows and then the rows of the
stream's bytes lay out the frame BUILD_URL writes, but for TXPOWER at offset 12, which no row carries. That
the rows run on their own is log entry 4, what the AD rows do 6, what the reserved ones do 7. -/
def Obligations.BuildUrlIsItsMicroOperations : Prop :=
  ∀ s : State, s.work = .idle → s.culen.toNat ≤ 18 → ∃ (t : State) (g : Frame), exec .buildUrl s = .next t ∧
    execAll ([.adFlags, .adUuid16List, .adServiceData (4#8 + s.culen) .url] ++ decodeStream s.stream) s =
      .next { s with work := .building g s.culen.toNat } ∧
    g.set 12 s.txpower = t.fr

/-! ### Encodings -/

/-- Decoding an encoded well-formed instruction in its format gives it back, for every row and every operand
value its constraint admits (`30_encoding.md`, opcode table). -/
def Obligations.DecodeOfEncodeIsIdentity : Prop :=
  ∀ (i : Instr) (rest : List Byte), i.wf = true → decode (formatOf i) (encode i ++ rest) = .ok (i, rest)

/-- Whatever a decoder accepts is a well-formed row of its format, and its bytes are those read: no bit of a
word is dropped and no word has two readings in one format. -/
def Obligations.DecodedBytesAreTheEncoding : Prop :=
  ∀ (fmt : Format) (bs rest : List Byte) (i : Instr), decode fmt bs = .ok (i, rest) →
    i.wf = true ∧ formatOf i = fmt ∧ encode i ++ rest = bs

/-- A few words written out from the spec's tables (R61, R66, R67, R65, R68, R79, R70). -/
def Obligations.WordsOfTheTablesDecode : Prop :=
  decode .cmd [0x80#8] = .ok (.encode, []) ∧ decode .cmd [0x30#8] = .ok (.cmdReserved 0x30#8, []) ∧
  decode .t0 [0x04#8] = .ok (.pfx4, []) ∧ decode .t0 [0x05#8] = .ok (.t0Reserved 0x05#8, []) ∧
  decode .tb [0x04#8] = .ok (.sfx4, []) ∧ decode .tb [0x0d#8] = .ok (.sfx13, []) ∧
  decode .tb [0x7a#8] = .ok (.lit78to7b 2#2, []) ∧ decode .tb [0x22#8] = .ok (.tbReserved 0x22#8, []) ∧
  decode .ft [0x10#8] = .ok (.frameUrl, []) ∧
  decode .ad [0x14#8, 0x16#8, 0xaa#8, 0xfe#8, 0x00#8] = .ok (.adServiceData 0x14#8 .uid, [])

/-- A later stream byte is told apart by its value alone: a suffix index 0x00 to 0x0d, a literal 0x23 to
0x7e, or reserved (R65, R67, R68). -/
def Obligations.StreamByteIsToldApartByValue : Prop :=
  ∀ b : Byte,
    ((decodeTb b, b.toNat) ∈ suffixRows ↔ b.toNat ≤ 0x0d) ∧
    (LiteralRow (decodeTb b) b ↔ 0x23 ≤ b.toNat ∧ b.toNat ≤ 0x7e) ∧
    (decodeTb b = .tbReserved b ↔ (0x0e ≤ b.toNat ∧ b.toNat ≤ 0x22) ∨ 0x7f ≤ b.toNat)

/-! ### The host -/

/-- A host write stores exactly the value given and changes nothing else (`42_host_commands.md` section 1,
decision D1), for every write the interface has. -/
def Obligations.HostWriteStoresExactlyTheValue : Prop :=
  ∀ (s : State) (w : HostWrite) (rest : List Event), s.urlbuf.wf → s.pending = .write w :: rest →
    hostMove (.write w) = true →
    ∃ t, step s = .next t ∧
      (∀ r, readValue r t = if r = writeTarget w then writeValue w else readValue r s) ∧
      t.work = s.work ∧ t.pending = rest ∧ t.replies = s.replies

/-- A host read hands the register's value to the host and changes no register (`42_host_commands.md` section
1, `20_memory.md` section 3, decision D1; where the value goes is log entry 3). -/
def Obligations.HostReadChangesNoRegister : Prop :=
  ∀ (s : State) (r : HostRead) (rest : List Event), s.pending = .read r :: rest →
    hostMove (.read r) = true →
    step s = .next { s with pending := rest, replies := s.replies ++ [readValue r s] }

/-- The moves the interface does not have stop the machine by name: an index of URLBUF at or above URL_MAX, a
URLLEN above it (`20_memory.md` section 1, decision D22; the stops are log entries 10 and 11). -/
def Obligations.MovesTheHostLacksStop : Prop :=
  ∀ (s : State) (rest : List Event) (k : Nat) (v : Byte),
    (Config.urlMax ≤ k → s.pending = .write (.urlbuf k v) :: rest → step s = .fault (.outsideUrlbuf k)) ∧
    (Config.urlMax ≤ k → s.pending = .read (.urlbuf k) :: rest → step s = .fault (.outsideUrlbuf k)) ∧
    (Config.urlMax < k → s.pending = .write (.urllen k) :: rest → step s = .refused (.noSuchHostMove k))

/-- LOAD_URL (R78, decision D20): its writes put the text into URLBUF and URLLEN, and ENCODE's input is then
that text. -/
def Obligations.LoadUrlPresentsTheText : Prop :=
  ∀ (s : State) (text : List Byte), s.urlbuf.wf → text.length ≤ Config.urlMax →
    ∃ t, serve (loadUrl text) s = .next t ∧ t.url = text ∧
      (∀ k, text.length ≤ k → t.urlbuf.read k = s.urlbuf.read k) ∧
      t = { s with urlbuf := t.urlbuf, urllen := text.length, pending := [] }

/-- BEACON_TLM (R165): the host reads STATUS 0 and then the 31 bytes of the TLM frame of the counters it wrote
(the script notation is decision D20, the codes D2 and D4). -/
def Obligations.BeaconTlmReadsTheFrame : Prop :=
  ∀ (s : State) (adv sec : Counter),
    ∃ t, serveStages (beaconTlm adv sec) s = .next t ∧
      t.replies = s.replies ++ .byte 0#8 :: (tlmFrame adv sec).toList.map .byte ∧
      t.advcnt = adv ∧ t.elapsed = sec

/-! ### The whole machine -/

/-- The reset state satisfies the invariant. The values it holds are the spec's decision D7 (log entry 16); that
`work` is idle is log entry 5. -/
def Obligations.ResetStateIsGood : Prop := State.reset.Inv

/-- Every step keeps the invariant: URLBUF canonical and inside its space, URLLEN at most URL_MAX, FR zero or a
frame of one of the three kinds with its length byte and zero fill, the working variables in range (R12,
R22, R25, R41, R79; the fill of UID and TLM frames is decision D11, the TLM sub-fields D12). -/
def Obligations.EveryStepKeepsTheInvariant : Prop :=
  ∀ s t : State, s.Inv → step s = .next t → t.Inv

/-- The host's own moves never stop the machine, and after each the block is between commands again: a
command is indivisible and always ends (R106 c, R162, R164, R167; decisions D3 and D22). -/
def Obligations.HostMovesNeverStopTheMachine : Prop :=
  ∀ s : State, s.quiet → ∃ t, step s = .next t ∧ t.quiet ∧ t.pending = s.pending.tail
end

