-- ==== Sys2Proof/Laws/Codec.lean ====
section
/-! SUPPORT. What the codec's operations answer: the match predicate and the first match as R101 and R108
word them, each micro-operation's answer, and the number of passes the body loop can make. -/

namespace Sys2Proof.Machine

/-- The match predicate is R101's. -/
theorem matchesAt_iff (url t : List Byte) (c : Nat) : matchesAt url t c = true ↔ Matches url t c := by
  simp only [matchesAt, Matches, Bool.and_eq_true, decide_eq_true_eq]
  refine and_congr_right fun hlen => ⟨fun h k hk => ?_, fun h => ?_⟩
  · have := congrArg (fun l => l[k]?) h
    simpa [List.getElem?_take, hk] using this
  · apply List.ext_getElem?
    intro k
    by_cases hk : k < t.length
    · simpa [List.getElem?_take, hk] using h k hk
    · simp [hk]

/-- The first match is R108's. -/
theorem firstMatch_eq_some (rom : List (List Byte)) (url : List Byte) (c i : Nat) :
    firstMatch rom url c = some i ↔ FirstAt rom url c i := by
  rw [firstMatch, List.findIdx?_eq_some_iff_getElem, FirstAt]
  constructor
  · rintro ⟨h, hm, hn⟩
    refine ⟨h, ?_, fun j hj => ?_⟩
    · simpa [romEntry, h, matchesAt_iff] using hm
    · have := hn j hj
      have hlt : j < rom.length := by omega
      rw [← matchesAt_iff]
      simpa [romEntry, hlt] using this
  · rintro ⟨h, hm, hn⟩
    refine ⟨h, ?_, fun j hj => ?_⟩
    · rw [← matchesAt_iff] at hm
      simpa [romEntry, h] using hm
    · have := hn j hj
      have hlt : j < rom.length := by omega
      rw [← matchesAt_iff] at this
      simpa [romEntry, hlt] using this

/-- No first match: no entry matches. -/
theorem firstMatch_eq_none (rom : List (List Byte)) (url : List Byte) (c : Nat) :
    firstMatch rom url c = none ↔ NoneAt rom url c := by
  rw [firstMatch, List.findIdx?_eq_none_iff, NoneAt]
  constructor
  · intro h i hi
    rw [← matchesAt_iff]
    have := h _ (List.getElem_mem hi)
    simpa [romEntry, hi] using this
  · intro h t ht
    obtain ⟨i, hi, rfl⟩ := List.getElem_of_mem ht
    have := h i hi
    rw [← matchesAt_iff] at this
    simpa [romEntry, hi] using this

/-- Every entry of SFXROM is 4 to 6 bytes long (R24, R40). -/
theorem sfx_length (j : Nat) (h : j < sfxRom.length) :
    4 ≤ (romEntry sfxRom j).length ∧ (romEntry sfxRom j).length ≤ 6 := by
  revert j; decide

/-- Every entry of PFXROM is 7 to 12 bytes long (R40). -/
theorem pfx_length (i : Nat) (h : i < pfxRom.length) :
    7 ≤ (romEntry pfxRom i).length ∧ (romEntry pfxRom i).length ≤ 12 := by
  revert i; decide

/-- ENC.PFX answers InvalidPrefix where no prefix matches, else the first match's token (R102). -/
theorem encPfx_cases (url : List Byte) :
    (NoneAt pfxRom url 0 ∧ encPfx url = .error .invalidPrefix) ∨
      ∃ p, FirstAt pfxRom url 0 p ∧ encPfx url = .ok ((romEntry pfxRom p).length, [tokenByte p]) := by
  unfold encPfx
  cases h : firstMatch pfxRom url 0 with
  | none => exact .inl ⟨(firstMatch_eq_none ..).1 h, rfl⟩
  | some p => exact .inr ⟨p, (firstMatch_eq_some ..).1 h, rfl⟩

/-- ENC.LIT at a position inside the input: rejected, or the literal there (R104). -/
theorem encLit_cases (url : List Byte) (c : Nat) (h : c < url.length) :
    (RejectedAt url c ∧ encLit url c = .error .invalidCharacter) ∨
      ∃ ch, LiteralAt url c ch ∧ encLit url c = .ok (ch, c + 1) := by
  have hc : url[c]? = some url[c] := List.getElem?_eq_getElem h
  unfold encLit
  simp only [List.getD_eq_getElem?_getD, hc, Option.getD_some]
  split
  · exact .inl ⟨⟨_, hc, by assumption⟩, rfl⟩
  · refine .inr ⟨url[c], ⟨hc, ?_, ?_⟩, rfl⟩ <;> omega

/-- ENC.LEN with its cursor: TooLong at w = 18, else the byte stored (R105). -/
theorem encEmit_eq (out : List Byte) (b : Byte) (c' : Nat) :
    encEmit out b c' = if out.length = 18 then .error .tooLong else .ok (c', out ++ [b]) := by
  unfold encEmit encLen cuMax
  by_cases h : out.length = 18 <;> simp [h]

/-- One pass at a position inside the input (R100): the byte there is rejected, or the pass emits. -/
theorem encPass_cases (url : List Byte) (c : Nat) (out : List Byte) (h : c < url.length) :
    (NoneAt sfxRom url c ∧ RejectedAt url c ∧ encPass url c out = .error .invalidCharacter) ∨
      ∃ b c', Emits url c b c' ∧ encPass url c out = encEmit out b c' := by
  unfold encPass encSfx
  cases hf : firstMatch sfxRom url c with
  | some j =>
    exact .inr ⟨_, _, .suffix j ((firstMatch_eq_some ..).1 hf), rfl⟩
  | none =>
    have hn := (firstMatch_eq_none ..).1 hf
    rcases encLit_cases url c h with ⟨hr, he⟩ | ⟨ch, hl, he⟩
    · exact .inl ⟨hn, hr, by simp [he]⟩
    · exact .inr ⟨ch, c + 1, .literal ch h hn hl, by simp [he]⟩

/-- The cursor moves forward and stays inside the input (R24). -/
theorem Emits.cursor {url : List Byte} {c : Nat} {b : Byte} {c' : Nat} (h : Emits url c b c') :
    c < c' ∧ c' ≤ url.length ∧ c' ≤ c + 6 := by
  cases h with
  | suffix j first =>
    have hl := sfx_length j first.1
    have := first.2.1.1
    omega
  | literal ch inside _ _ => omega

/-- An emitted byte is a suffix index or a literal (R65). -/
theorem Emits.byte {url : List Byte} {c : Nat} {b : Byte} {c' : Nat} (h : Emits url c b c') :
    b.toNat ≤ 13 ∨ isLiteral b = true := by
  cases h with
  | suffix j first =>
    have : j < 14 := first.1
    left
    rw [BitVec.toNat_ofNat]
    omega
  | literal ch _ _ lit => right; simp [isLiteral, lit.2.1, lit.2.2]

end Sys2Proof.Machine
end

