-- ==== Sys2Proof/Laws/Command.lean ====
section
/-! SUPPORT. What each shared end of a command leaves, with the frame or output a variable: cite these
rather than let a record update be compared field by field with a concrete frame in it. -/

namespace Sys2Proof.Machine

/-- A command that raises (R187). -/
theorem raise_eq (k : ErrKind) (s : State) : raise k s = { s with status := .err k, work := .idle } := rfl

/-- A build that ends well (R135). -/
theorem endBuild_ok (f : Frame) (s : State) :
    endBuild (.ok f) s = { s with fr := f, status := .ok, work := .idle } := rfl

/-- A build that fails (R187). -/
theorem endBuild_error (k : ErrKind) (s : State) :
    endBuild (.error k) s = { s with status := .err k, work := .idle } := rfl

/-- An ENCODE that ends well (R106). -/
theorem endEncode_ok (out : List Byte) (s : State) :
    endEncode (.ok out) s =
      { s with cu := cuOf out, culen := BitVec.ofNat 8 out.length, status := .ok, work := .idle } := rfl

/-- An ENCODE that fails (R187). -/
theorem endEncode_error (k : ErrKind) (s : State) :
    endEncode (.error k) s = { s with status := .err k, work := .idle } := rfl

/-- BUILD_UID's two outcomes (R131). -/
theorem assembleUid_cases (s : State) :
    ((s.nidlen ≠ 10#8 ∨ s.bidlen ≠ 6#8) ∧ assembleUid s = .error .invalidLength) ∨
      (s.nidlen = 10#8 ∧ s.bidlen = 6#8 ∧ assembleUid s = .ok (uidFrame s.txpower s.nidbuf s.bidbuf)) := by
  unfold assembleUid nidLen bidLen
  by_cases h : s.nidlen ≠ 10#8 ∨ s.bidlen ≠ 6#8
  · exact .inl ⟨h, if_pos h⟩
  · exact .inr ⟨by_contra fun h' => h (.inl h'), by_contra fun h' => h (.inr h'), if_neg h⟩

/-- BUILD_URL's two outcomes (R132). -/
theorem assembleUrl_cases (s : State) :
    (18 < s.culen.toNat ∧ assembleUrl s = .error .tooLong) ∨
      (s.culen.toNat ≤ 18 ∧ assembleUrl s = .ok (urlFrame s.txpower s.culen s.stream)) := by
  unfold assembleUrl cuMax
  by_cases h : 18 < s.culen.toNat
  · exact .inl ⟨h, if_pos h⟩
  · exact .inr ⟨by omega, if_neg h⟩

/-- The stream of a length BUILD_URL accepts has that length. -/
theorem length_stream (s : State) (h : s.culen.toNat ≤ 18) : s.stream.length = s.culen.toNat := by
  simp [State.stream]; omega

theorem exec_encode (s : State) : exec .encode s = .next (endEncode (encodeUrl s.url) s) := rfl

theorem exec_buildUid (s : State) : exec .buildUid s = .next (endBuild (assembleUid s) s) := rfl

theorem exec_buildUrl (s : State) : exec .buildUrl s = .next (endBuild (assembleUrl s) s) := rfl

theorem exec_buildTlm (s : State) :
    exec .buildTlm s = .next (endBuild (.ok (tlmFrame s.advcnt s.elapsed)) s) := rfl

theorem exec_cmdReserved (c : Byte) (s : State) : exec (.cmdReserved c) s = .next (raise .badCommand s) := rfl

end Sys2Proof.Machine
end

