-- ==== Sys2Proof/Laws/Frame.lean ====
section
/-! SUPPORT. The bytes of a buffer after `putBytes`, as a list: every layout of the Frame Builder and the
commit of CU follow from this one lemma. -/

namespace Sys2Proof.Machine

/-- Consecutive bytes inside a buffer: what lies before and behind them stays. -/
theorem toList_putBytes {n : Nat} (bs : List Byte) : ∀ (buf : Vector Byte n) (a : Nat), a + bs.length ≤ n →
    (putBytes buf a bs).toList = buf.toList.take a ++ bs ++ buf.toList.drop (a + bs.length) := by
  induction bs with
  | nil => intro buf a _; simp [putBytes]
  | cons b bs ih =>
    intro buf a h
    have h' : a + 1 + bs.length ≤ n := by simp only [List.length_cons] at h; omega
    have hlen : buf.toList.length = n := by simp
    rw [putBytes, ih _ _ h', Vector.toList_setIfInBounds, List.length_cons]
    have ha : a < buf.toList.length := by omega
    have ht : (buf.toList.set a b).take (a + 1) = buf.toList.take a ++ [b] := by
      rw [List.take_add_one, List.take_set_of_le (le_refl a), List.getElem?_set_self ha]
      rfl
    have hd : (buf.toList.set a b).drop (a + 1 + bs.length) = buf.toList.drop (a + (bs.length + 1)) := by
      rw [List.drop_set_of_lt (by omega)]
      congr 1; omega
    rw [ht, hd]
    simp

/-- The bytes of a fresh frame. -/
@[simp] theorem toList_zeroFrame : zeroFrame.toList = List.replicate 31 0x00#8 := by simp [zeroFrame]

/-- The preamble is twelve bytes, whatever the frame held (R130). -/
theorem toList_putPre (l t : Byte) (f : Frame) :
    (putPre l t f).toList = [0x02#8, 0x01#8, 0x06#8, 0x03#8, 0x03#8, 0xaa#8, 0xfe#8, l, 0x16#8, 0xaa#8, 0xfe#8, t] ++
      f.toList.drop 12 := by
  rw [putPre, putAdServiceData, putAdUuid16List, putAdFlags, toList_putBytes _ _ _ (by simp [le16]),
    toList_putBytes _ _ _ (by simp [le16]), toList_putBytes _ _ _ (by simp)]
  simp [le16, eddyUuid]

/-- A frame whose payload is `bs`: preamble, payload, zero fill (R134). -/
theorem toList_payload (l t : Byte) (bs : List Byte) (h : bs.length ≤ 19) :
    (putBytes (putPre l t zeroFrame) 12 bs).toList =
      [0x02#8, 0x01#8, 0x06#8, 0x03#8, 0x03#8, 0xaa#8, 0xfe#8, l, 0x16#8, 0xaa#8, 0xfe#8, t] ++ bs ++
        List.replicate (19 - bs.length) 0x00#8 := by
  rw [toList_putBytes _ _ _ (by omega), toList_putPre, toList_zeroFrame, ← List.drop_drop]
  have hz : ∀ A : List Byte, A.length = 12 → (A ++ (List.replicate 31 0x00#8).drop 12).drop 12 =
      List.replicate 19 0x00#8 := fun A hA => by rw [List.drop_left' hA]; rfl
  rw [hz _ rfl, List.take_left' (i := 12) (by rfl), List.drop_replicate]

/-- Format UID as a list (R71). -/
theorem toList_uidFrame (tx : Byte) (nid : Vector Byte 10) (bid : Vector Byte 6) :
    (uidFrame tx nid bid).toList =
      [0x02#8, 0x01#8, 0x06#8, 0x03#8, 0x03#8, 0xaa#8, 0xfe#8, 20#8, 0x16#8, 0xaa#8, 0xfe#8, 0x00#8] ++
        ([tx] ++ nid.toList ++ bid.toList) ++ [0x00#8, 0x00#8] := by
  rw [uidFrame, toList_payload _ _ _ (by simp)]
  simp [sdLenUid, FrameType.byte]

/-- Format URL as a list (R72). -/
theorem toList_urlFrame (tx culen : Byte) (stream : List Byte) (h : stream.length ≤ 18) :
    (urlFrame tx culen stream).toList =
      [0x02#8, 0x01#8, 0x06#8, 0x03#8, 0x03#8, 0xaa#8, 0xfe#8, 4#8 + culen, 0x16#8, 0xaa#8, 0xfe#8, 0x10#8] ++
        ([tx] ++ stream) ++ List.replicate (18 - stream.length) 0x00#8 := by
  rw [urlFrame, toList_payload _ _ _ (by simp; omega)]
  simp [sdLenUrl, FrameType.byte]

/-- Format TLM as a list (R73). -/
theorem toList_tlmFrame (adv sec : Counter) :
    (tlmFrame adv sec).toList =
      [0x02#8, 0x01#8, 0x06#8, 0x03#8, 0x03#8, 0xaa#8, 0xfe#8, 0x11#8, 0x16#8, 0xaa#8, 0xfe#8, 0x20#8] ++
        ([0x00#8, 0x00#8, 0x00#8, 0x80#8, 0x00#8] ++ be32 adv ++ be32 sec) ++ List.replicate 6 0x00#8 := by
  rw [tlmFrame, toList_payload _ _ _ (by simp [tlmFixed, be16, be32])]
  simp [sdLenTlm, FrameType.byte, tlmFixed, be16, be32]

/-- CU after a commit: the output, then zeros (R106). -/
theorem toList_cuOf (out : List Byte) (h : out.length ≤ 18) :
    (cuOf out).toList = out ++ List.replicate (18 - out.length) 0x00#8 := by
  rw [cuOf, toList_putBytes _ _ _ (by omega), Vector.toList_replicate, List.drop_replicate, Nat.zero_add]
  rfl

/-- A buffer's byte is its list's. -/
theorem getElem_eq_of_toList {n : Nat} (v : Vector Byte n) (l : List Byte) (h : v.toList = l) (k : Nat) (hk : k < n) :
    l[k]? = some v[k] := by
  subst h; simp [hk]

end Sys2Proof.Machine
end

