-- ==== Sys2Proof/Laws/Memory.lean ====
section
/-! SUPPORT. The laws of URLBUF's canonical list: a write is read back and leaves every other byte alone,
and every operation keeps the canonical form and the space's bound. -/

namespace Sys2Proof.Machine

/-- An index below every listed one reads as unlisted. -/
theorem Memory.read_below (m : Memory) (k : Nat) (h : ∀ x ∈ m, k < x.1) : m.read k = unlisted := by
  induction m with
  | nil => rfl
  | cons x rest ih =>
    obtain ⟨a, v⟩ := x
    have hk : k < a := h (a, v) (by simp)
    simp only [Memory.read, if_neg (by omega : ¬ a = k)]
    exact ih fun y hy => h y (by simp [hy])

/-- Reading after a write: the byte written, and every other byte as before. -/
theorem Memory.read_write (m : Memory) (hm : m.wf) (k j : Nat) (v : Byte) :
    (m.write k v).read j = if j = k then v else m.read j := by
  induction m with
  | nil => by_cases hv : v = unlisted <;> by_cases hj : j = k <;> simp_all [Memory.write, Memory.read, eq_comm]
  | cons x rest ih =>
    obtain ⟨a, w⟩ := x
    obtain ⟨hp, hne⟩ := hm
    rw [List.pairwise_cons] at hp
    have below : ∀ i ≤ a, Memory.read rest i = unlisted := fun i hi =>
      Memory.read_below rest i fun y hy => lt_of_le_of_lt hi (hp.1 y hy)
    have hrest := ih ⟨hp.2, fun y hy => hne y (by simp [hy])⟩
    simp only [Memory.write]
    split
    · split
      · by_cases hj : j = k
        · rw [if_pos hj, Memory.read, if_neg (by omega), below j (by omega)]
          exact (by assumption : v = unlisted).symm
        · simp [hj]
      · by_cases hj : j = k
        · simp [Memory.read, hj]
        · simp [Memory.read, hj, Ne.symm hj]
    · split
      · rename_i hka
        subst hka
        split
        · by_cases hj : j = k
          · rw [if_pos hj, below j (by omega)]; exact (by assumption : v = unlisted).symm
          · simp [Memory.read, hj, Ne.symm hj]
        · by_cases hj : j = k
          · simp [Memory.read, hj]
          · simp [Memory.read, hj, Ne.symm hj]
      · by_cases hj : a = j
        · subst hj
          have : ¬ a = k := by omega
          simp [Memory.read, this]
        · simp [Memory.read, hj, hrest]

/-- Every index a write lists was listed before or is the one written. -/
theorem Memory.mem_write (m : Memory) (k : Nat) (v : Byte) :
    ∀ x ∈ m.write k v, x ∈ m ∨ (x = (k, v) ∧ v ≠ unlisted) := by
  induction m with
  | nil => intro x hx; by_cases hv : v = unlisted <;> simp_all [Memory.write]
  | cons y rest ih =>
    obtain ⟨a, w⟩ := y
    intro x hx
    simp only [Memory.write] at hx
    split at hx
    · split at hx
      · exact .inl hx
      · rcases List.mem_cons.1 hx with h | h
        · exact .inr ⟨h, by assumption⟩
        · exact .inl h
    · split at hx
      · split at hx
        · exact .inl (List.mem_cons_of_mem _ hx)
        · rcases List.mem_cons.1 hx with h | h
          · exact .inr ⟨h, by assumption⟩
          · exact .inl (List.mem_cons_of_mem _ h)
      · rcases List.mem_cons.1 hx with h | h
        · exact .inl (by simp [h])
        · rcases ih x h with h' | h'
          · exact .inl (List.mem_cons_of_mem _ h')
          · exact .inr h'

/-- A write keeps the canonical form. -/
theorem Memory.write_wf (m : Memory) (hm : m.wf) (k : Nat) (v : Byte) : (m.write k v).wf := by
  refine ⟨?_, fun x hx => ?_⟩
  · obtain ⟨hp, -⟩ := hm
    induction m with
    | nil => by_cases hv : v = unlisted <;> simp [Memory.write, hv]
    | cons x rest ih =>
      obtain ⟨a, w⟩ := x
      have hp' := List.pairwise_cons.1 hp
      simp only [Memory.write]
      split
      · split
        · exact hp
        · refine List.pairwise_cons.2 ⟨fun y hy => ?_, hp⟩
          rcases List.mem_cons.1 hy with h | h
          · subst h; assumption
          · have := hp'.1 y h; simp at this ⊢; omega
      · split
        · rename_i hka
          subst hka
          split
          · exact hp'.2
          · exact List.pairwise_cons.2 ⟨fun y hy => hp'.1 y hy, hp'.2⟩
        · refine List.pairwise_cons.2 ⟨fun y hy => ?_, ih hp'.2⟩
          rcases Memory.mem_write rest k v y hy with h | h
          · exact hp'.1 y h
          · rw [h.1]; simp; omega
  · rcases Memory.mem_write m k v x hx with h | h
    · exact hm.2 x h
    · rw [h.1]; exact h.2

/-- A write inside the space keeps every listed index inside it. -/
theorem Memory.write_inside (m : Memory) (n k : Nat) (v : Byte) (hm : ∀ x ∈ m, x.1 < n) (hk : k < n) :
    ∀ x ∈ m.write k v, x.1 < n := by
  intro x hx
  rcases Memory.mem_write m k v x hx with h | h
  · exact hm x h
  · rw [h.1]; exact hk

/-- Reset's URLBUF is in canonical form. -/
theorem reset_urlbuf_wf : State.reset.urlbuf.wf := by decide

end Sys2Proof.Machine
end

