-- ==== Sys2Proof/Laws/PerInstr.lean ====
section
/-! SUPPORT. The per-instruction family `WordSize`: how many bytes each row's words have (`30_encoding.md`
section 6). Every format but AD has one-byte words; the three AD rows have 3, 4 and 5. -/

namespace Sys2Proof.Laws

/-- The bytes a row of the opcode table has: one, but for the AD structures, whose first byte (a length)
counts the bytes that follow it in the frame, itself excluded. -/
def WordSize.Statement (i : Instr) : Prop :=
  (Sys2Proof.encode i).length = match i with
    | .adFlags => 3
    | .adUuid16List => 4
    | .adServiceData _ _ => 5
    | _ => 1

theorem WordSize.buildUid : WordSize.Statement .buildUid := rfl

theorem WordSize.buildUrl : WordSize.Statement .buildUrl := rfl

theorem WordSize.buildTlm : WordSize.Statement .buildTlm := rfl

theorem WordSize.encode : WordSize.Statement .encode := rfl

theorem WordSize.cmdReserved (code : Byte) : WordSize.Statement (.cmdReserved code) := rfl

theorem WordSize.pfx0 : WordSize.Statement .pfx0 := rfl

theorem WordSize.pfx1 : WordSize.Statement .pfx1 := rfl

theorem WordSize.pfx2 : WordSize.Statement .pfx2 := rfl

theorem WordSize.pfx3 : WordSize.Statement .pfx3 := rfl

theorem WordSize.pfx4 : WordSize.Statement .pfx4 := rfl

theorem WordSize.sfx0 : WordSize.Statement .sfx0 := rfl

theorem WordSize.sfx1 : WordSize.Statement .sfx1 := rfl

theorem WordSize.sfx2 : WordSize.Statement .sfx2 := rfl

theorem WordSize.sfx3 : WordSize.Statement .sfx3 := rfl

theorem WordSize.sfx4 : WordSize.Statement .sfx4 := rfl

theorem WordSize.sfx5 : WordSize.Statement .sfx5 := rfl

theorem WordSize.sfx6 : WordSize.Statement .sfx6 := rfl

theorem WordSize.sfx7 : WordSize.Statement .sfx7 := rfl

theorem WordSize.sfx8 : WordSize.Statement .sfx8 := rfl

theorem WordSize.sfx9 : WordSize.Statement .sfx9 := rfl

theorem WordSize.sfx10 : WordSize.Statement .sfx10 := rfl

theorem WordSize.sfx11 : WordSize.Statement .sfx11 := rfl

theorem WordSize.sfx12 : WordSize.Statement .sfx12 := rfl

theorem WordSize.sfx13 : WordSize.Statement .sfx13 := rfl

theorem WordSize.lit23 : WordSize.Statement .lit23 := rfl

theorem WordSize.lit24to27 (low : BitVec 2) : WordSize.Statement (.lit24to27 low) := rfl

theorem WordSize.lit28to2f (low : BitVec 3) : WordSize.Statement (.lit28to2f low) := rfl

theorem WordSize.lit30to3f (low : BitVec 4) : WordSize.Statement (.lit30to3f low) := rfl

theorem WordSize.lit40to5f (low : BitVec 5) : WordSize.Statement (.lit40to5f low) := rfl

theorem WordSize.lit60to6f (low : BitVec 4) : WordSize.Statement (.lit60to6f low) := rfl

theorem WordSize.lit70to77 (low : BitVec 3) : WordSize.Statement (.lit70to77 low) := rfl

theorem WordSize.lit78to7b (low : BitVec 2) : WordSize.Statement (.lit78to7b low) := rfl

theorem WordSize.lit7cto7d (low : BitVec 1) : WordSize.Statement (.lit7cto7d low) := rfl

theorem WordSize.lit7e : WordSize.Statement .lit7e := rfl

theorem WordSize.t0Reserved (b : Byte) : WordSize.Statement (.t0Reserved b) := rfl

theorem WordSize.tbReserved (b : Byte) : WordSize.Statement (.tbReserved b) := rfl

theorem WordSize.frameUid : WordSize.Statement .frameUid := rfl

theorem WordSize.frameUrl : WordSize.Statement .frameUrl := rfl

theorem WordSize.frameTlm : WordSize.Statement .frameTlm := rfl

theorem WordSize.adFlags : WordSize.Statement .adFlags := rfl

theorem WordSize.adUuid16List : WordSize.Statement .adUuid16List := rfl

theorem WordSize.adServiceData (len : Byte) (ftype : FrameType) : WordSize.Statement (.adServiceData len ftype) := rfl

end Sys2Proof.Laws
end

