-- ==== Sys2Proof/Laws/State.lean ====
section
/-! SUPPORT. The fields of a state after each named update: one lemma per field per update, each true by
rfl, so that no later proof unfolds a record update. -/

namespace Sys2Proof.Machine

/-! ### State.setWork -/

@[simp] theorem State.setWork_urlbuf (s : State) (w : Work) : (s.setWork w).urlbuf = s.urlbuf := rfl
@[simp] theorem State.setWork_urllen (s : State) (w : Work) : (s.setWork w).urllen = s.urllen := rfl
@[simp] theorem State.setWork_txpower (s : State) (w : Work) : (s.setWork w).txpower = s.txpower := rfl
@[simp] theorem State.setWork_nidbuf (s : State) (w : Work) : (s.setWork w).nidbuf = s.nidbuf := rfl
@[simp] theorem State.setWork_nidlen (s : State) (w : Work) : (s.setWork w).nidlen = s.nidlen := rfl
@[simp] theorem State.setWork_bidbuf (s : State) (w : Work) : (s.setWork w).bidbuf = s.bidbuf := rfl
@[simp] theorem State.setWork_bidlen (s : State) (w : Work) : (s.setWork w).bidlen = s.bidlen := rfl
@[simp] theorem State.setWork_advcnt (s : State) (w : Work) : (s.setWork w).advcnt = s.advcnt := rfl
@[simp] theorem State.setWork_elapsed (s : State) (w : Work) : (s.setWork w).elapsed = s.elapsed := rfl
@[simp] theorem State.setWork_cu (s : State) (w : Work) : (s.setWork w).cu = s.cu := rfl
@[simp] theorem State.setWork_culen (s : State) (w : Work) : (s.setWork w).culen = s.culen := rfl
@[simp] theorem State.setWork_fr (s : State) (w : Work) : (s.setWork w).fr = s.fr := rfl
@[simp] theorem State.setWork_status (s : State) (w : Work) : (s.setWork w).status = s.status := rfl
@[simp] theorem State.setWork_work (s : State) (w : Work) : (s.setWork w).work = w := rfl
@[simp] theorem State.setWork_pending (s : State) (w : Work) : (s.setWork w).pending = s.pending := rfl
@[simp] theorem State.setWork_replies (s : State) (w : Work) : (s.setWork w).replies = s.replies := rfl

/-! ### State.setPending -/

@[simp] theorem State.setPending_urlbuf (s : State) (es : List Event) : (s.setPending es).urlbuf = s.urlbuf := rfl
@[simp] theorem State.setPending_urllen (s : State) (es : List Event) : (s.setPending es).urllen = s.urllen := rfl
@[simp] theorem State.setPending_txpower (s : State) (es : List Event) : (s.setPending es).txpower = s.txpower := rfl
@[simp] theorem State.setPending_nidbuf (s : State) (es : List Event) : (s.setPending es).nidbuf = s.nidbuf := rfl
@[simp] theorem State.setPending_nidlen (s : State) (es : List Event) : (s.setPending es).nidlen = s.nidlen := rfl
@[simp] theorem State.setPending_bidbuf (s : State) (es : List Event) : (s.setPending es).bidbuf = s.bidbuf := rfl
@[simp] theorem State.setPending_bidlen (s : State) (es : List Event) : (s.setPending es).bidlen = s.bidlen := rfl
@[simp] theorem State.setPending_advcnt (s : State) (es : List Event) : (s.setPending es).advcnt = s.advcnt := rfl
@[simp] theorem State.setPending_elapsed (s : State) (es : List Event) : (s.setPending es).elapsed = s.elapsed := rfl
@[simp] theorem State.setPending_cu (s : State) (es : List Event) : (s.setPending es).cu = s.cu := rfl
@[simp] theorem State.setPending_culen (s : State) (es : List Event) : (s.setPending es).culen = s.culen := rfl
@[simp] theorem State.setPending_fr (s : State) (es : List Event) : (s.setPending es).fr = s.fr := rfl
@[simp] theorem State.setPending_status (s : State) (es : List Event) : (s.setPending es).status = s.status := rfl
@[simp] theorem State.setPending_work (s : State) (es : List Event) : (s.setPending es).work = s.work := rfl
@[simp] theorem State.setPending_pending (s : State) (es : List Event) : (s.setPending es).pending = es := rfl
@[simp] theorem State.setPending_replies (s : State) (es : List Event) : (s.setPending es).replies = s.replies := rfl

/-! ### State.reply -/

@[simp] theorem State.reply_urlbuf (s : State) (r : Reply) : (s.reply r).urlbuf = s.urlbuf := rfl
@[simp] theorem State.reply_urllen (s : State) (r : Reply) : (s.reply r).urllen = s.urllen := rfl
@[simp] theorem State.reply_txpower (s : State) (r : Reply) : (s.reply r).txpower = s.txpower := rfl
@[simp] theorem State.reply_nidbuf (s : State) (r : Reply) : (s.reply r).nidbuf = s.nidbuf := rfl
@[simp] theorem State.reply_nidlen (s : State) (r : Reply) : (s.reply r).nidlen = s.nidlen := rfl
@[simp] theorem State.reply_bidbuf (s : State) (r : Reply) : (s.reply r).bidbuf = s.bidbuf := rfl
@[simp] theorem State.reply_bidlen (s : State) (r : Reply) : (s.reply r).bidlen = s.bidlen := rfl
@[simp] theorem State.reply_advcnt (s : State) (r : Reply) : (s.reply r).advcnt = s.advcnt := rfl
@[simp] theorem State.reply_elapsed (s : State) (r : Reply) : (s.reply r).elapsed = s.elapsed := rfl
@[simp] theorem State.reply_cu (s : State) (r : Reply) : (s.reply r).cu = s.cu := rfl
@[simp] theorem State.reply_culen (s : State) (r : Reply) : (s.reply r).culen = s.culen := rfl
@[simp] theorem State.reply_fr (s : State) (r : Reply) : (s.reply r).fr = s.fr := rfl
@[simp] theorem State.reply_status (s : State) (r : Reply) : (s.reply r).status = s.status := rfl
@[simp] theorem State.reply_work (s : State) (r : Reply) : (s.reply r).work = s.work := rfl
@[simp] theorem State.reply_pending (s : State) (r : Reply) : (s.reply r).pending = s.pending := rfl
@[simp] theorem State.reply_replies (s : State) (r : Reply) : (s.reply r).replies = s.replies ++ [r] := rfl

/-! ### raise -/

@[simp] theorem raise_urlbuf (s : State) (k : ErrKind) : (raise k s).urlbuf = s.urlbuf := rfl
@[simp] theorem raise_urllen (s : State) (k : ErrKind) : (raise k s).urllen = s.urllen := rfl
@[simp] theorem raise_txpower (s : State) (k : ErrKind) : (raise k s).txpower = s.txpower := rfl
@[simp] theorem raise_nidbuf (s : State) (k : ErrKind) : (raise k s).nidbuf = s.nidbuf := rfl
@[simp] theorem raise_nidlen (s : State) (k : ErrKind) : (raise k s).nidlen = s.nidlen := rfl
@[simp] theorem raise_bidbuf (s : State) (k : ErrKind) : (raise k s).bidbuf = s.bidbuf := rfl
@[simp] theorem raise_bidlen (s : State) (k : ErrKind) : (raise k s).bidlen = s.bidlen := rfl
@[simp] theorem raise_advcnt (s : State) (k : ErrKind) : (raise k s).advcnt = s.advcnt := rfl
@[simp] theorem raise_elapsed (s : State) (k : ErrKind) : (raise k s).elapsed = s.elapsed := rfl
@[simp] theorem raise_cu (s : State) (k : ErrKind) : (raise k s).cu = s.cu := rfl
@[simp] theorem raise_culen (s : State) (k : ErrKind) : (raise k s).culen = s.culen := rfl
@[simp] theorem raise_fr (s : State) (k : ErrKind) : (raise k s).fr = s.fr := rfl
@[simp] theorem raise_status (s : State) (k : ErrKind) : (raise k s).status = .err k := rfl
@[simp] theorem raise_work (s : State) (k : ErrKind) : (raise k s).work = .idle := rfl
@[simp] theorem raise_pending (s : State) (k : ErrKind) : (raise k s).pending = s.pending := rfl
@[simp] theorem raise_replies (s : State) (k : ErrKind) : (raise k s).replies = s.replies := rfl

/-! ### done -/

@[simp] theorem done_urlbuf (s : State) : (done s).urlbuf = s.urlbuf := rfl
@[simp] theorem done_urllen (s : State) : (done s).urllen = s.urllen := rfl
@[simp] theorem done_txpower (s : State) : (done s).txpower = s.txpower := rfl
@[simp] theorem done_nidbuf (s : State) : (done s).nidbuf = s.nidbuf := rfl
@[simp] theorem done_nidlen (s : State) : (done s).nidlen = s.nidlen := rfl
@[simp] theorem done_bidbuf (s : State) : (done s).bidbuf = s.bidbuf := rfl
@[simp] theorem done_bidlen (s : State) : (done s).bidlen = s.bidlen := rfl
@[simp] theorem done_advcnt (s : State) : (done s).advcnt = s.advcnt := rfl
@[simp] theorem done_elapsed (s : State) : (done s).elapsed = s.elapsed := rfl
@[simp] theorem done_cu (s : State) : (done s).cu = s.cu := rfl
@[simp] theorem done_culen (s : State) : (done s).culen = s.culen := rfl
@[simp] theorem done_fr (s : State) : (done s).fr = s.fr := rfl
@[simp] theorem done_status (s : State) : (done s).status = .ok := rfl
@[simp] theorem done_work (s : State) : (done s).work = .idle := rfl
@[simp] theorem done_pending (s : State) : (done s).pending = s.pending := rfl
@[simp] theorem done_replies (s : State) : (done s).replies = s.replies := rfl

/-! ### commitCu -/

@[simp] theorem commitCu_urlbuf (s : State) (out : List Byte) : (commitCu out s).urlbuf = s.urlbuf := rfl
@[simp] theorem commitCu_urllen (s : State) (out : List Byte) : (commitCu out s).urllen = s.urllen := rfl
@[simp] theorem commitCu_txpower (s : State) (out : List Byte) : (commitCu out s).txpower = s.txpower := rfl
@[simp] theorem commitCu_nidbuf (s : State) (out : List Byte) : (commitCu out s).nidbuf = s.nidbuf := rfl
@[simp] theorem commitCu_nidlen (s : State) (out : List Byte) : (commitCu out s).nidlen = s.nidlen := rfl
@[simp] theorem commitCu_bidbuf (s : State) (out : List Byte) : (commitCu out s).bidbuf = s.bidbuf := rfl
@[simp] theorem commitCu_bidlen (s : State) (out : List Byte) : (commitCu out s).bidlen = s.bidlen := rfl
@[simp] theorem commitCu_advcnt (s : State) (out : List Byte) : (commitCu out s).advcnt = s.advcnt := rfl
@[simp] theorem commitCu_elapsed (s : State) (out : List Byte) : (commitCu out s).elapsed = s.elapsed := rfl
@[simp] theorem commitCu_cu (s : State) (out : List Byte) : (commitCu out s).cu = cuOf out := rfl
@[simp] theorem commitCu_culen (s : State) (out : List Byte) : (commitCu out s).culen = BitVec.ofNat 8 out.length := rfl
@[simp] theorem commitCu_fr (s : State) (out : List Byte) : (commitCu out s).fr = s.fr := rfl
@[simp] theorem commitCu_status (s : State) (out : List Byte) : (commitCu out s).status = s.status := rfl
@[simp] theorem commitCu_work (s : State) (out : List Byte) : (commitCu out s).work = s.work := rfl
@[simp] theorem commitCu_pending (s : State) (out : List Byte) : (commitCu out s).pending = s.pending := rfl
@[simp] theorem commitCu_replies (s : State) (out : List Byte) : (commitCu out s).replies = s.replies := rfl

/-! ### commitFr -/

@[simp] theorem commitFr_urlbuf (s : State) (f : Frame) : (commitFr f s).urlbuf = s.urlbuf := rfl
@[simp] theorem commitFr_urllen (s : State) (f : Frame) : (commitFr f s).urllen = s.urllen := rfl
@[simp] theorem commitFr_txpower (s : State) (f : Frame) : (commitFr f s).txpower = s.txpower := rfl
@[simp] theorem commitFr_nidbuf (s : State) (f : Frame) : (commitFr f s).nidbuf = s.nidbuf := rfl
@[simp] theorem commitFr_nidlen (s : State) (f : Frame) : (commitFr f s).nidlen = s.nidlen := rfl
@[simp] theorem commitFr_bidbuf (s : State) (f : Frame) : (commitFr f s).bidbuf = s.bidbuf := rfl
@[simp] theorem commitFr_bidlen (s : State) (f : Frame) : (commitFr f s).bidlen = s.bidlen := rfl
@[simp] theorem commitFr_advcnt (s : State) (f : Frame) : (commitFr f s).advcnt = s.advcnt := rfl
@[simp] theorem commitFr_elapsed (s : State) (f : Frame) : (commitFr f s).elapsed = s.elapsed := rfl
@[simp] theorem commitFr_cu (s : State) (f : Frame) : (commitFr f s).cu = s.cu := rfl
@[simp] theorem commitFr_culen (s : State) (f : Frame) : (commitFr f s).culen = s.culen := rfl
@[simp] theorem commitFr_fr (s : State) (f : Frame) : (commitFr f s).fr = f := rfl
@[simp] theorem commitFr_status (s : State) (f : Frame) : (commitFr f s).status = s.status := rfl
@[simp] theorem commitFr_work (s : State) (f : Frame) : (commitFr f s).work = s.work := rfl
@[simp] theorem commitFr_pending (s : State) (f : Frame) : (commitFr f s).pending = s.pending := rfl
@[simp] theorem commitFr_replies (s : State) (f : Frame) : (commitFr f s).replies = s.replies := rfl

/-! ### resetBlock -/

@[simp] theorem resetBlock_urlbuf (s : State) : (resetBlock s).urlbuf = State.reset.urlbuf := by simp only [resetBlock]
@[simp] theorem resetBlock_urllen (s : State) : (resetBlock s).urllen = State.reset.urllen := by simp only [resetBlock]
@[simp] theorem resetBlock_txpower (s : State) : (resetBlock s).txpower = State.reset.txpower := by simp only [resetBlock]
@[simp] theorem resetBlock_nidbuf (s : State) : (resetBlock s).nidbuf = State.reset.nidbuf := by simp only [resetBlock]
@[simp] theorem resetBlock_nidlen (s : State) : (resetBlock s).nidlen = State.reset.nidlen := by simp only [resetBlock]
@[simp] theorem resetBlock_bidbuf (s : State) : (resetBlock s).bidbuf = State.reset.bidbuf := by simp only [resetBlock]
@[simp] theorem resetBlock_bidlen (s : State) : (resetBlock s).bidlen = State.reset.bidlen := by simp only [resetBlock]
@[simp] theorem resetBlock_advcnt (s : State) : (resetBlock s).advcnt = State.reset.advcnt := by simp only [resetBlock]
@[simp] theorem resetBlock_elapsed (s : State) : (resetBlock s).elapsed = State.reset.elapsed := by simp only [resetBlock]
@[simp] theorem resetBlock_cu (s : State) : (resetBlock s).cu = State.reset.cu := by simp only [resetBlock]
@[simp] theorem resetBlock_culen (s : State) : (resetBlock s).culen = State.reset.culen := by simp only [resetBlock]
@[simp] theorem resetBlock_fr (s : State) : (resetBlock s).fr = State.reset.fr := by simp only [resetBlock]
@[simp] theorem resetBlock_status (s : State) : (resetBlock s).status = State.reset.status := by simp only [resetBlock]
@[simp] theorem resetBlock_work (s : State) : (resetBlock s).work = State.reset.work := by simp only [resetBlock]
@[simp] theorem resetBlock_pending (s : State) : (resetBlock s).pending = s.pending := by simp only [resetBlock]
@[simp] theorem resetBlock_replies (s : State) : (resetBlock s).replies = s.replies := by simp only [resetBlock]

/-! ### Readings of a state -/

@[simp] theorem url_setWork (s : State) (w : Work) : (s.setWork w).url = s.url := rfl

@[simp] theorem url_setPending (s : State) (es : List Event) : (s.setPending es).url = s.url := rfl

@[simp] theorem stream_setWork (s : State) (w : Work) : (s.setWork w).stream = s.stream := rfl

@[simp] theorem stream_setPending (s : State) (es : List Event) : (s.setPending es).stream = s.stream := rfl

@[simp] theorem length_url (s : State) : s.url.length = s.urllen := by simp [State.url]

end Sys2Proof.Machine
end

