-- ==== Sys2Proof/Laws/Token.lean ====
section
/-! SUPPORT. What the stream rows can do: which shared operation each row is, the emission of a suffix, and
the turn of BUILD_URL's copy loop. -/

namespace Sys2Proof.Machine

/-- Every suffix row is the suffix token of its index. -/
theorem exec_suffixRow (i : Instr) (j : Nat) (s : State) (h : (i, j) ∈ suffixRows) :
    exec i s = .next (sfxToken j s) := by
  simp only [suffixRows, List.mem_cons, Prod.mk.injEq, List.not_mem_nil, or_false] at h
  rcases h with h | h | h | h | h | h | h | h | h | h | h | h | h | h <;> obtain ⟨rfl, rfl⟩ := h <;> rfl

/-- Every prefix row is the prefix token of its index. -/
theorem exec_prefixRow (i : Instr) (p : Nat) (s : State) (h : (i, p) ∈ prefixRows) :
    exec i s = .next (pfxToken p s) := by
  simp only [prefixRows, List.mem_cons, Prod.mk.injEq, List.not_mem_nil, or_false] at h
  rcases h with h | h | h | h | h <;> obtain ⟨rfl, rfl⟩ := h <;> rfl

/-- A suffix token whose entry is not the first match at the cursor emits nothing. -/
theorem emitSuffix_of_not_first (j c : Nat) (out : List Byte) (s : State) (h : ¬ FirstAt sfxRom s.url c j) :
    emitSuffix j c out s = s :=
  if_neg fun e => h ((firstMatch_eq_some _ _ _ _).1 e)

/-- A suffix token whose entry is the first match emits it (R103, R105). -/
theorem emitSuffix_of_first (j c : Nat) (out : List Byte) (s : State) (h : FirstAt sfxRom s.url c j) :
    emitSuffix j c out s = if out.length = 18 then raise .tooLong s
      else s.setWork (.encoding (c + (romEntry sfxRom j).length) (out ++ [tokenByte j])) := by
  rw [emitSuffix, if_pos ((firstMatch_eq_some _ _ _ _).2 h), encEmit_eq]
  split <;> rfl

/-- No suffix entry matches at or behind the end of the input. -/
theorem noneAt_end (url : List Byte) (c : Nat) (h : url.length ≤ c) : NoneAt sfxRom url c := fun i hi hm => by
  have := (sfx_length i hi).1
  have := hm.1
  omega

/-! ### While a frame is built -/

theorem pfxToken_building (i : Nat) (s : State) (f : Frame) (k : Nat) (hw : s.work = .building f k) :
    pfxToken i s = copyFirst (tokenByte i) f k s := by rw [pfxToken, hw]

theorem sfxToken_building (j : Nat) (s : State) (f : Frame) (k : Nat) (hw : s.work = .building f k) :
    sfxToken j s = copyLater (tokenByte j) f k s := by rw [sfxToken, hw]

theorem litToken_building (ch : Byte) (s : State) (f : Frame) (k : Nat) (hw : s.work = .building f k) :
    litToken ch s = copyLater ch f k s := by rw [litToken, hw]

theorem reservedFirst_building (b : Byte) (s : State) (f : Frame) (k : Nat) (hw : s.work = .building f k) :
    reservedFirst b s = copyFirst b f k s := by rw [reservedFirst, hw]

theorem reservedLater_building (b : Byte) (s : State) (f : Frame) (k : Nat) (hw : s.work = .building f k) :
    reservedLater b s = copyLater b f k s := by rw [reservedLater, hw]

/-- While a frame is built, a row of format T0 is the copy of its byte at position 0. -/
theorem exec_t0Row_building (i : Instr) (s : State) (f : Frame) (b : Byte) (k : Nat) (he : encode i = [b])
    (hf : formatOf i = .t0) (hw : s.work = .building f k) : exec i s = .next (copyFirst b f k s) := by
  cases i <;> cases hf
  case t0Reserved.refl c =>
    obtain rfl : c = b := by simpa only [encode, List.cons.injEq, and_true] using he
    exact congrArg _ (reservedFirst_building _ _ _ _ hw)
  all_goals
    rw [← List.head_eq_of_cons_eq he]
    exact congrArg _ (pfxToken_building _ _ _ _ hw)

/-- While a frame is built, a row of format TB is the copy of its byte at a later position. -/
theorem exec_tbRow_building (i : Instr) (s : State) (f : Frame) (b : Byte) (k : Nat) (he : encode i = [b])
    (hf : formatOf i = .tb) (hw : s.work = .building f k) : exec i s = .next (copyLater b f k s) := by
  cases i <;> cases hf
  case tbReserved.refl c =>
    obtain rfl : c = b := by simpa only [encode, List.cons.injEq, and_true] using he
    exact congrArg _ (reservedLater_building _ _ _ _ hw)
  all_goals
    rw [← List.head_eq_of_cons_eq he]
    first
      | exact congrArg _ (sfxToken_building _ _ _ _ hw)
      | exact congrArg _ (litToken_building _ _ _ _ hw)

/-- A turn of the copy loop for a byte that is not next leaves everything as it is. -/
theorem copyByte_of_not_next (b : Byte) (f : Frame) (k : Nat) (s : State)
    (h : f[11] ≠ 0x10#8 ∨ s.culen.toNat ≤ k ∨ s.cu[k]? ≠ some b) : copyByte b f k s = s := by
  refine if_neg fun e => ?_
  simp only [copiesNext, Bool.and_eq_true] at e
  obtain ⟨⟨hk, hb⟩, hf⟩ := e
  rcases h with h | h | h
  · exact h (of_decide_eq_true hf)
  · exact absurd (of_decide_eq_true hk) (by omega)
  · exact h (of_decide_eq_true hb)

/-- A turn of the copy loop for the byte that is next: it goes to offset 13 + k, every other byte of the frame
stays (R132). -/
theorem copyByte_of_next (b : Byte) (f : Frame) (k : Nat) (s : State) (hf : f[11] = 0x10#8)
    (hk : k < s.culen.toNat) (hb : s.cu[k]? = some b) :
    ∃ g : Frame, g[13 + k]? = some b ∧ (∀ j, j ≠ 13 + k → g[j]? = f[j]?) ∧
      copyByte b f k s = s.setWork (.building g (k + 1)) := by
  have hk18 : k < 18 := (Vector.getElem?_eq_some_iff.1 hb).1
  refine ⟨f.setIfInBounds (13 + k) b, ?_, fun j hj => Vector.getElem?_setIfInBounds_ne (Ne.symm hj), if_pos ?_⟩
  · rw [Vector.getElem?_setIfInBounds_self, if_pos (by omega)]
  · simp only [copiesNext, Bool.and_eq_true]
    exact ⟨⟨decide_eq_true hk, decide_eq_true hb⟩, decide_eq_true hf⟩

end Sys2Proof.Machine
end

