-- ==== Sys2Proof/Tests/Slice0.lean ====
section
/-! SUPPORT. The model's own tests: the ill-formed terms WellFormed refuses, words written out from the
spec's encodings, the spec's vectors (`95_test_vectors.md`), one step each, and for every statement with
hypotheses a state and operands that meet them (`meets_` theorems). Expected values are the spec's. -/

namespace Sys2Proof.Tests

open Sys2Proof Sys2Proof.Machine

/-- The next state, if the outcome is one. -/
def nextOf : Host.Outcome State Fault Refusal → Option State
  | .next s => some s
  | _ => none

/-- Reset with a URL in URLBUF and URLLEN. -/
def withUrl (url : List Byte) : State :=
  { State.reset with urlbuf := (List.range url.length).zip url, urllen := url.length }

/-- Reset with an identity, its lengths and a TXPOWER. -/
def withId (tx nl bl : Byte) (nid bid : List Byte) : State :=
  { State.reset with
    txpower := tx, nidlen := nl, bidlen := bl
    nidbuf := putBytes (Vector.replicate 10 0x00#8) 0 nid
    bidbuf := putBytes (Vector.replicate 6 0x00#8) 0 bid }

/-- Reset with a compressed URL, its length and a TXPOWER. -/
def withCu (tx len : Byte) (cu : List Byte) : State :=
  { State.reset with txpower := tx, culen := len, cu := cuOf cu }

/-- ENCODE under way: cursor c, output so far. -/
def underWay (url : List Byte) (c : Nat) (out : List Byte) : State :=
  (withUrl url).setWork (.encoding c out)

/-- A URL frame under construction, k stream bytes copied. -/
def copying (tx len : Byte) (cu : List Byte) (k : Nat) : State :=
  (withCu tx len cu).setWork (.building (putPre (4#8 + len) 0x10#8 zeroFrame) k)

/-- STATUS, CULEN and the stream after ENCODE. -/
def encoded (url : List Byte) : Option (ResultKind × Byte × List Byte) :=
  (nextOf (exec .encode (withUrl url))).map (fun t => (t.status, t.culen, t.stream))

/-- STATUS and the bytes of FR. -/
def built (i : Instr) (s : State) : Option (ResultKind × List Byte) :=
  (nextOf (exec i s)).map (fun t => (t.status, t.fr.toList))

/-- STATUS and the working variables. -/
def worked (i : Instr) (s : State) : Option (ResultKind × Work) :=
  (nextOf (exec i s)).map (fun t => (t.status, t.work))

/-- The working frame's byte k and the copy index. -/
def frameByte (i : Instr) (s : State) (k : Nat) : Option (Option Byte × Nat) :=
  match ((nextOf (exec i s)).map (fun t => t.work) : Option Work) with
  | some (Work.building f n) => some (f[k]?, n)
  | _ => none

/-! ### WellFormed refuses an ill-formed term for each check -/

theorem test_wf_command_code_is_not_reserved : Instr.wf (.cmdReserved 0x80#8) = false := by decide

theorem test_wf_prefix_index_is_not_reserved : Instr.wf (.t0Reserved 0x04#8) = false := by decide

theorem test_wf_suffix_index_is_not_reserved : Instr.wf (.tbReserved 0x0d#8) = false := by decide

theorem test_wf_literal_is_not_reserved : Instr.wf (.tbReserved 0x23#8) = false := by decide

theorem test_wf_uid_length_is_20 : Instr.wf (.adServiceData 0x17#8 .uid) = false := by decide

theorem test_wf_url_length_is_at_most_22 : Instr.wf (.adServiceData 23#8 .url) = false := by decide

theorem test_wf_url_length_is_at_least_4 : Instr.wf (.adServiceData 3#8 .url) = false := by decide

theorem test_wf_tlm_length_is_17 : Instr.wf (.adServiceData 16#8 .tlm) = false := by decide

theorem test_wf_accepts :
    [Instr.cmdReserved 0x30#8, .t0Reserved 0x05#8, .tbReserved 0x0e#8, .tbReserved 0x7f#8, .adServiceData 22#8 .url].all Instr.wf = true := by decide


/-! ### Words written out from the spec's encodings (R61, R66, R67, R65, R79, R70), every constructor -/

/-- Format CMD: command bytes (R61, R62). -/
theorem test_words_cmd :
    [0b00000000#8,
     0b00010000#8,
     0b00100000#8,
     0b10000000#8,
     0b00110000#8].map (fun b => decode .cmd [b]) =
    [Instr.buildUid,
     Instr.buildUrl,
     Instr.buildTlm,
     Instr.encode,
     Instr.cmdReserved 0x30#8].map (fun i => Except.ok (i, [])) := by decide

/-- Format T0: prefix tokens (R64, R66, R68). -/
theorem test_words_t0 :
    [0b00000000#8,
     0b00000001#8,
     0b00000010#8,
     0b00000011#8,
     0b00000100#8,
     0b00000101#8].map (fun b => decode .t0 [b]) =
    [Instr.pfx0,
     Instr.pfx1,
     Instr.pfx2,
     Instr.pfx3,
     Instr.pfx4,
     Instr.t0Reserved 0x05#8].map (fun i => Except.ok (i, [])) := by decide

/-- Format TB: suffix tokens (R65, R67). -/
theorem test_words_tb :
    [0b00000000#8,
     0b00000001#8,
     0b00000010#8,
     0b00000011#8,
     0b00000100#8,
     0b00000101#8,
     0b00000110#8,
     0b00000111#8,
     0b00001000#8,
     0b00001001#8,
     0b00001010#8,
     0b00001011#8,
     0b00001100#8,
     0b00001101#8].map (fun b => decode .tb [b]) =
    [Instr.sfx0,
     Instr.sfx1,
     Instr.sfx2,
     Instr.sfx3,
     Instr.sfx4,
     Instr.sfx5,
     Instr.sfx6,
     Instr.sfx7,
     Instr.sfx8,
     Instr.sfx9,
     Instr.sfx10,
     Instr.sfx11,
     Instr.sfx12,
     Instr.sfx13].map (fun i => Except.ok (i, [])) := by decide

/-- Format TB: literals and reserved values (R65, R68). -/
theorem test_words_tb_literals :
    [0b00100011#8,
     0b00100110#8,
     0b00101111#8,
     0b00111010#8,
     0b01011010#8,
     0b01100101#8,
     0b01110111#8,
     0b01111001#8,
     0b01111101#8,
     0b01111110#8,
     0b01111111#8,
     0b00001110#8,
     0b00100010#8].map (fun b => decode .tb [b]) =
    [Instr.lit23,
     Instr.lit24to27 2#2,
     Instr.lit28to2f 7#3,
     Instr.lit30to3f 10#4,
     Instr.lit40to5f 26#5,
     Instr.lit60to6f 5#4,
     Instr.lit70to77 7#3,
     Instr.lit78to7b 1#2,
     Instr.lit7cto7d 1#1,
     Instr.lit7e,
     Instr.tbReserved 0x7f#8,
     Instr.tbReserved 0x0e#8,
     Instr.tbReserved 0x22#8].map (fun i => Except.ok (i, [])) := by decide

/-- Format FT: frame-type bytes (R79). -/
theorem test_words_ft :
    [0b00000000#8,
     0b00010000#8,
     0b00100000#8].map (fun b => decode .ft [b]) =
    [Instr.frameUid,
     Instr.frameUrl,
     Instr.frameTlm].map (fun i => Except.ok (i, [])) := by decide

/-- AD.FLAGS, AD.UUID16LIST, AD.SERVICEDATA of a UID frame and of a URL frame with 9 stream bytes (R70, R71, R72). -/
theorem test_words_ad :
    decode .ad [0x02, 0x01, 0x06] = .ok (.adFlags, []) ∧
    decode .ad [0x03, 0x03, 0xaa, 0xfe] = .ok (.adUuid16List, []) ∧
    decode .ad [0x14, 0x16, 0xaa, 0xfe, 0x00] = .ok (.adServiceData 0x14#8 .uid, []) ∧
    decode .ad [0x0d, 0x16, 0xaa, 0xfe, 0x10] = .ok (.adServiceData 0x0d#8 .url, []) := by decide

/-- Rejected by name: a UUID in the wrong byte order (R43), another frame type (U6), another length (C1), an end too soon. -/
theorem test_ad_rejects :
    decode .ad [0x14, 0x16, 0xfe, 0xaa, 0x00] = .error .badUuid ∧
    decode .ad [0x14, 0x16, 0xaa, 0xfe, 0x30] = .error (.reservedFrameType 0x30#8) ∧
    decode .ad [0x17, 0x16, 0xaa, 0xfe, 0x00] = .error (.badServiceDataLength 0x17#8) ∧
    decode .ad [0x02, 0x01] = .error .truncatedAd ∧ decode .ft [0x30] = .error (.reservedFrameType 0x30#8) := by decide

/-- K5, K6 of `95_test_vectors.md`: no partial decode of a command byte. -/
theorem test_k6 :
    [0x30#8, 0x01, 0x0f, 0x11, 0x1f, 0x21, 0x40, 0x7f, 0x81, 0x90, 0xff].all
      (fun b => decide (decodeCmd b = .cmdReserved b)) = true := by decide

/-- Table words: the AD patterns as the table numbers them, and a word only one format has a row for (log entry 8). -/
theorem test_table_words :
    decodeTableWord 24 0x020106 = some .adFlags ∧ decodeTableWord 32 0x0303aafe = some .adUuid16List ∧
    decodeTableWord 8 0x80 = some .encode ∧ decodeTableWord 8 0x7e = some .lit7e ∧
    decodeTableWord 8 0x03 = some .pfx3 ∧ decodeTableWord 8 0xff = some (.cmdReserved 0xff#8) := by decide

set_option maxRecDepth 4000 in
/-- A table word placed after reset is what the very next step runs. -/
theorem test_first_step_runs_the_word :
    (nextOf (step (State.reset.withFetchWord 8 0x20))).map (fun t => (t.fr[11], t.status)) = some (0x20#8, .ok) ∧
    (nextOf (step (State.reset.withFetchWord 24 0x020106))).map (fun t => t.work) =
      some (.building (putAdFlags zeroFrame) 0) := by decide


/-! ### ENCODE (vectors E*) -/

/-- E1 (source S8): prefix 1, seven literals, `.com/`. -/
theorem test_encode_e1 :
    encoded [0x68, 0x74, 0x74, 0x70, 0x73, 0x3a, 0x2f, 0x2f, 0x77, 0x77, 0x77, 0x2e, 0x65, 0x78, 0x61, 0x6d, 0x70, 0x6c, 0x65, 0x2e, 0x63, 0x6f, 0x6d, 0x2f] =
      some (.ok, 9#8, [0x01, 0x65, 0x78, 0x61, 0x6d, 0x70, 0x6c, 0x65, 0x00]) := by decide

/-- E34: an invalid byte that would be the 19th emission gives InvalidCharacter, not TooLong. -/
theorem test_encode_e34 :
    encoded [0x68, 0x74, 0x74, 0x70, 0x3a, 0x2f, 0x2f, 0x61, 0x62, 0x63, 0x64, 0x65, 0x66, 0x67, 0x68, 0x69, 0x6a, 0x6b, 0x6c, 0x6d, 0x6e, 0x6f, 0x70, 0x71, 0x01] =
      some (.err .invalidCharacter, 0#8, []) := by decide

/-- E20: `.info/` at c is six bytes, `.biz` at the end. -/
theorem test_codec_e20 :
    encodeUrl [0x68, 0x74, 0x74, 0x70, 0x3a, 0x2f, 0x2f, 0x78, 0x2e, 0x69, 0x6e, 0x66, 0x6f, 0x2f, 0x79, 0x2e, 0x62, 0x69, 0x7a] = .ok [0x02, 0x78, 0x04, 0x79, 0x0c] := by decide

/-- E25: every suffix index once, in order. -/
theorem test_codec_e25 :
    encodeUrl [0x68, 0x74, 0x74, 0x70, 0x3a, 0x2f, 0x2f, 0x2e, 0x63, 0x6f, 0x6d, 0x2f, 0x2e, 0x6f, 0x72, 0x67, 0x2f, 0x2e, 0x65, 0x64, 0x75, 0x2f, 0x2e, 0x6e, 0x65, 0x74, 0x2f, 0x2e, 0x69, 0x6e, 0x66, 0x6f, 0x2f, 0x2e, 0x62, 0x69, 0x7a, 0x2f, 0x2e, 0x67, 0x6f, 0x76, 0x2f, 0x2e, 0x63, 0x6f, 0x6d, 0x2e, 0x6f, 0x72, 0x67, 0x2e, 0x65, 0x64, 0x75, 0x2e, 0x6e, 0x65, 0x74, 0x2e, 0x69, 0x6e, 0x66, 0x6f, 0x2e, 0x62, 0x69, 0x7a, 0x2e, 0x67, 0x6f, 0x76] =
      .ok [0x02, 0x00, 0x01, 0x02, 0x03, 0x04, 0x05, 0x06, 0x07, 0x08, 0x09, 0x0a, 0x0b, 0x0c, 0x0d] := by decide

/-- E15, E16: `http://wwww.` and `https://www` take the shorter prefix. -/
theorem test_codec_e15_e16 :
    encodeUrl [0x68, 0x74, 0x74, 0x70, 0x3a, 0x2f, 0x2f, 0x77, 0x77, 0x77, 0x77, 0x2e, 0x78, 0x2e, 0x6e, 0x65, 0x74] = .ok [0x02, 0x77, 0x77, 0x77, 0x77, 0x2e, 0x78, 0x0a] ∧
    encodeUrl [0x68, 0x74, 0x74, 0x70, 0x73, 0x3a, 0x2f, 0x2f, 0x77, 0x77, 0x77] = .ok [0x03, 0x77, 0x77, 0x77] := by decide

/-- E30, E31, E33: exactly 18 bytes succeed, a literal or a token as 19th byte fails. -/
theorem test_codec_limit :
    encodeUrl [0x68, 0x74, 0x74, 0x70, 0x3a, 0x2f, 0x2f, 0x61, 0x62, 0x63, 0x64, 0x65, 0x66, 0x67, 0x68, 0x69, 0x6a, 0x6b, 0x6c, 0x6d, 0x6e, 0x6f, 0x70, 0x71] = .ok [0x02, 0x61, 0x62, 0x63, 0x64, 0x65, 0x66, 0x67, 0x68, 0x69, 0x6a, 0x6b, 0x6c, 0x6d, 0x6e, 0x6f, 0x70, 0x71] ∧
    encodeUrl [0x68, 0x74, 0x74, 0x70, 0x3a, 0x2f, 0x2f, 0x61, 0x62, 0x63, 0x64, 0x65, 0x66, 0x67, 0x68, 0x69, 0x6a, 0x6b, 0x6c, 0x6d, 0x6e, 0x6f, 0x70, 0x71, 0x72] = .error .tooLong ∧
    encodeUrl [0x68, 0x74, 0x74, 0x70, 0x3a, 0x2f, 0x2f, 0x61, 0x62, 0x63, 0x64, 0x65, 0x66, 0x67, 0x68, 0x69, 0x6a, 0x6b, 0x6c, 0x6d, 0x6e, 0x6f, 0x70, 0x71, 0x2e, 0x63, 0x6f, 0x6d, 0x2f] = .error .tooLong := by decide

/-- E34c: TooLong is met before an invalid byte further on. -/
theorem test_codec_e34c :
    encodeUrl [0x68, 0x74, 0x74, 0x70, 0x3a, 0x2f, 0x2f, 0x61, 0x62, 0x63, 0x64, 0x65, 0x66, 0x67, 0x68, 0x69, 0x6a, 0x6b, 0x6c, 0x6d, 0x6e, 0x6f, 0x70, 0x71, 0x72, 0x01] = .error .tooLong := by decide

/-- E35, E36: 114 input bytes fit, 120 do not. -/
theorem test_codec_e35_e36 :
    encodeUrl ([0x68, 0x74, 0x74, 0x70, 0x73, 0x3a, 0x2f, 0x2f, 0x77, 0x77, 0x77, 0x2e] ++
      (List.replicate 17 [0x2e, 0x69, 0x6e, 0x66, 0x6f, 0x2f]).flatten) = .ok (0x01 :: List.replicate 17 0x04) ∧
    encodeUrl ([0x68, 0x74, 0x74, 0x70, 0x73, 0x3a, 0x2f, 0x2f, 0x77, 0x77, 0x77, 0x2e] ++
      (List.replicate 18 [0x2e, 0x69, 0x6e, 0x66, 0x6f, 0x2f]).flatten) = .error .tooLong := by decide

/-- E8 to E12: no recognised scheme. -/
theorem test_codec_no_prefix :
    [[], [0x66, 0x74, 0x70, 0x3a, 0x2f, 0x2f, 0x65, 0x78, 0x61, 0x6d, 0x70, 0x6c, 0x65, 0x2e, 0x63, 0x6f, 0x6d],
      [0x48, 0x54, 0x54, 0x50, 0x3a, 0x2f, 0x2f, 0x65, 0x78, 0x61, 0x6d, 0x70, 0x6c, 0x65, 0x2e, 0x63, 0x6f, 0x6d],
      [0x68, 0x74, 0x74, 0x70, 0x3a, 0x2f],
      [0x68, 0x74, 0x74, 0x70, 0x73, 0x3a, 0x2f, 0x78]].all
      (fun url => decide (encodeUrl url = .error .invalidPrefix)) = true := by decide

/-- E29a, E29b, E40 to E46: the bounds of the literal range; 0x00 is no terminator. -/
theorem test_codec_literal_bounds :
    [0x23#8, 0x7e].all (fun ch => decide (encodeUrl ([0x68, 0x74, 0x74, 0x70, 0x3a, 0x2f, 0x2f, 0x61] ++ [ch]) = .ok [0x02, 0x61, ch])) = true ∧
    [0x20#8, 0x21, 0x22, 0x7f, 0x80, 0x00, 0xff].all
      (fun ch => decide (encodeUrl ([0x68, 0x74, 0x74, 0x70, 0x3a, 0x2f, 0x2f, 0x61] ++ [ch]) = .error .invalidCharacter)) = true := by decide

/-- E28: matching is case-exact. -/
theorem test_codec_e28 :
    encodeUrl [0x68, 0x74, 0x74, 0x70, 0x3a, 0x2f, 0x2f, 0x61, 0x2e, 0x43, 0x4f, 0x4d] = .ok [0x02, 0x61, 0x2e, 0x43, 0x4f, 0x4d] := by decide

/-- R76 on E20, and its non-example: `expand` is not injective on its domain. -/
theorem test_expand :
    expand [0x02, 0x78, 0x04, 0x79, 0x0c] = some [0x68, 0x74, 0x74, 0x70, 0x3a, 0x2f, 0x2f, 0x78, 0x2e, 0x69, 0x6e, 0x66, 0x6f, 0x2f, 0x79, 0x2e, 0x62, 0x69, 0x7a] ∧
    expand [0x02, 0x2e, 0x63, 0x6f, 0x6d] = some [0x68, 0x74, 0x74, 0x70, 0x3a, 0x2f, 0x2f, 0x2e, 0x63, 0x6f, 0x6d] ∧ expand [0x05] = none ∧ expand [0x02, 0x0e] = none := by decide


/-! ### The builders (vectors U*, L*, T*) -/

set_option maxRecDepth 4000 in
/-- U1: the worked example of R131. -/
theorem test_build_uid_u1 :
    built .buildUid (withId 0xed 10 6 [0x30, 0x31, 0x32, 0x33, 0x34, 0x35, 0x36, 0x37, 0x38, 0x39] [0x61, 0x62, 0x63, 0x64, 0x65, 0x66]) =
      some (.ok, [0x02, 0x01, 0x06, 0x03, 0x03, 0xaa, 0xfe, 0x14, 0x16, 0xaa, 0xfe, 0x00, 0xed, 0x30, 0x31, 0x32, 0x33, 0x34, 0x35, 0x36, 0x37, 0x38, 0x39, 0x61, 0x62, 0x63, 0x64, 0x65, 0x66, 0x00, 0x00]) := by decide

set_option maxRecDepth 4000 in
/-- U3, U4, U5, U6: a wrong length on either side; FR stays. -/
theorem test_build_uid_wrong_lengths :
    [(9#8, 6#8), (11, 6), (10, 5), (10, 7)].all (fun p => decide (built .buildUid (withId 0xed p.1 p.2 [0x30, 0x31, 0x32, 0x33, 0x34, 0x35, 0x36, 0x37, 0x38, 0x39] [0x61, 0x62, 0x63, 0x64, 0x65, 0x66]) =
      some (.err .invalidLength, List.replicate 31 0x00))) = true := by decide

set_option maxRecDepth 4000 in
/-- L1: the stream of E1. -/
theorem test_build_url_l1 :
    built .buildUrl (withCu 0xed 9 [0x01, 0x65, 0x78, 0x61, 0x6d, 0x70, 0x6c, 0x65, 0x00]) =
      some (.ok, [0x02, 0x01, 0x06, 0x03, 0x03, 0xaa, 0xfe, 0x0d, 0x16, 0xaa, 0xfe, 0x10, 0xed, 0x01, 0x65, 0x78, 0x61, 0x6d, 0x70, 0x6c, 0x65, 0x00, 0x00, 0x00, 0x00, 0x00, 0x00, 0x00, 0x00, 0x00, 0x00]) := by decide

set_option maxRecDepth 4000 in
/-- L10 and L6: bytes at CULEN and above are not copied; CULEN = 19 is TooLong. -/
theorem test_build_url_l10_l6 :
    built .buildUrl (withCu 0xed 2 [0x02, 0x61, 0x08, 0x55]) =
      some (.ok, [0x02, 0x01, 0x06, 0x03, 0x03, 0xaa, 0xfe, 0x06, 0x16, 0xaa, 0xfe, 0x10, 0xed, 0x02, 0x61, 0x00, 0x00, 0x00, 0x00, 0x00, 0x00, 0x00, 0x00, 0x00, 0x00, 0x00, 0x00, 0x00, 0x00, 0x00, 0x00]) ∧
    built .buildUrl (withCu 0xed 19 [0x02]) = some (.err .tooLong, List.replicate 31 0x00) := by decide

set_option maxRecDepth 4000 in
/-- T3: the counters most significant byte first. -/
theorem test_build_tlm_t3 :
    built .buildTlm { State.reset with advcnt := 0x01020304, elapsed := 0xa0b0c0d0 } =
      some (.ok, [0x02, 0x01, 0x06, 0x03, 0x03, 0xaa, 0xfe, 0x11, 0x16, 0xaa, 0xfe, 0x20, 0x00, 0x00, 0x00, 0x80, 0x00, 0x01, 0x02, 0x03, 0x04, 0xa0, 0xb0, 0xc0, 0xd0, 0x00, 0x00, 0x00, 0x00, 0x00, 0x00]) := by decide

set_option maxRecDepth 4000 in
/-- T2 also shows R138: ten seconds are 0x0000000a. -/
theorem test_build_tlm_t2 :
    built .buildTlm { State.reset with txpower := 0xed, advcnt := 1, elapsed := 10 } =
      some (.ok, [0x02, 0x01, 0x06, 0x03, 0x03, 0xaa, 0xfe, 0x11, 0x16, 0xaa, 0xfe, 0x20, 0x00, 0x00, 0x00, 0x80, 0x00, 0x00, 0x00, 0x00, 0x01, 0x00, 0x00, 0x00, 0x0a, 0x00, 0x00, 0x00, 0x00, 0x00, 0x00]) := by decide

/-- K5: a reserved code changes STATUS only, to 5. -/
theorem test_reserved_command_k5 :
    (nextOf (exec (.cmdReserved 0x30) (withUrl [0x61]))) = some { withUrl [0x61] with status := .err .badCommand } ∧
    statusByte (.err .badCommand) = 5#8 := by decide


/-! ### The prefix rows (R102) -/

/-- PFX.0, `http://www.`, with one more body byte. -/
theorem test_pfx0 :
    worked .pfx0 (withUrl [0x68, 0x74, 0x74, 0x70, 0x3a, 0x2f, 0x2f, 0x77, 0x77, 0x77, 0x2e, 0x78]) =
      some (.ok, .encoding 11 [0]) := by decide

/-- PFX.1, `https://www.`, with one more body byte. -/
theorem test_pfx1 :
    worked .pfx1 (withUrl [0x68, 0x74, 0x74, 0x70, 0x73, 0x3a, 0x2f, 0x2f, 0x77, 0x77, 0x77, 0x2e, 0x78]) =
      some (.ok, .encoding 12 [1]) := by decide

/-- PFX.2, `http://`, with one more body byte. -/
theorem test_pfx2 :
    worked .pfx2 (withUrl [0x68, 0x74, 0x74, 0x70, 0x3a, 0x2f, 0x2f, 0x78]) =
      some (.ok, .encoding 7 [2]) := by decide

/-- PFX.3, `https://`, with one more body byte. -/
theorem test_pfx3 :
    worked .pfx3 (withUrl [0x68, 0x74, 0x74, 0x70, 0x73, 0x3a, 0x2f, 0x2f, 0x78]) =
      some (.ok, .encoding 8 [3]) := by decide

/-- PFX.4, `urn:uuid:`, with one more body byte. -/
theorem test_pfx4 :
    worked .pfx4 (withUrl [0x75, 0x72, 0x6e, 0x3a, 0x75, 0x75, 0x69, 0x64, 0x3a, 0x78]) =
      some (.ok, .encoding 9 [4]) := by decide

/-- R102 b, c: the longer prefix comes first, so PFX.2 and PFX.3 do not act where PFX.0 and PFX.1 do. -/
theorem test_pfx_order :
    worked .pfx2 (withUrl [0x68, 0x74, 0x74, 0x70, 0x3a, 0x2f, 0x2f, 0x77, 0x77, 0x77, 0x2e, 0x78]) = some (.ok, .idle) ∧
    worked .pfx3 (withUrl [0x68, 0x74, 0x74, 0x70, 0x73, 0x3a, 0x2f, 0x2f, 0x77, 0x77, 0x77, 0x2e, 0x78]) = some (.ok, .idle) := by decide

/-- R102 a: no prefix, InvalidPrefix. -/
theorem test_pfx_none :
    worked .pfx4 (withUrl [0x75, 0x72, 0x6e, 0x3a, 0x75, 0x75, 0x69, 0x64]) = some (.err .invalidPrefix, .idle) := by decide


/-! ### The suffix rows (R103, R105) -/

/-- SFX.0, `.com/`. -/
theorem test_sfx0 :
    worked .sfx0 (underWay [0x68, 0x74, 0x74, 0x70, 0x3a, 0x2f, 0x2f, 0x2e, 0x63, 0x6f, 0x6d, 0x2f] 7 [2]) =
      some (.ok, .encoding 12 [2, 0]) := by decide

/-- SFX.1, `.org/`. -/
theorem test_sfx1 :
    worked .sfx1 (underWay [0x68, 0x74, 0x74, 0x70, 0x3a, 0x2f, 0x2f, 0x2e, 0x6f, 0x72, 0x67, 0x2f] 7 [2]) =
      some (.ok, .encoding 12 [2, 1]) := by decide

/-- SFX.2, `.edu/`. -/
theorem test_sfx2 :
    worked .sfx2 (underWay [0x68, 0x74, 0x74, 0x70, 0x3a, 0x2f, 0x2f, 0x2e, 0x65, 0x64, 0x75, 0x2f] 7 [2]) =
      some (.ok, .encoding 12 [2, 2]) := by decide

/-- SFX.3, `.net/`. -/
theorem test_sfx3 :
    worked .sfx3 (underWay [0x68, 0x74, 0x74, 0x70, 0x3a, 0x2f, 0x2f, 0x2e, 0x6e, 0x65, 0x74, 0x2f] 7 [2]) =
      some (.ok, .encoding 12 [2, 3]) := by decide

/-- SFX.4, `.info/`. -/
theorem test_sfx4 :
    worked .sfx4 (underWay [0x68, 0x74, 0x74, 0x70, 0x3a, 0x2f, 0x2f, 0x2e, 0x69, 0x6e, 0x66, 0x6f, 0x2f] 7 [2]) =
      some (.ok, .encoding 13 [2, 4]) := by decide

/-- SFX.5, `.biz/`. -/
theorem test_sfx5 :
    worked .sfx5 (underWay [0x68, 0x74, 0x74, 0x70, 0x3a, 0x2f, 0x2f, 0x2e, 0x62, 0x69, 0x7a, 0x2f] 7 [2]) =
      some (.ok, .encoding 12 [2, 5]) := by decide

/-- SFX.6, `.gov/`. -/
theorem test_sfx6 :
    worked .sfx6 (underWay [0x68, 0x74, 0x74, 0x70, 0x3a, 0x2f, 0x2f, 0x2e, 0x67, 0x6f, 0x76, 0x2f] 7 [2]) =
      some (.ok, .encoding 12 [2, 6]) := by decide

/-- SFX.7, `.com`. -/
theorem test_sfx7 :
    worked .sfx7 (underWay [0x68, 0x74, 0x74, 0x70, 0x3a, 0x2f, 0x2f, 0x2e, 0x63, 0x6f, 0x6d] 7 [2]) =
      some (.ok, .encoding 11 [2, 7]) := by decide

/-- SFX.8, `.org`. -/
theorem test_sfx8 :
    worked .sfx8 (underWay [0x68, 0x74, 0x74, 0x70, 0x3a, 0x2f, 0x2f, 0x2e, 0x6f, 0x72, 0x67] 7 [2]) =
      some (.ok, .encoding 11 [2, 8]) := by decide

/-- SFX.9, `.edu`. -/
theorem test_sfx9 :
    worked .sfx9 (underWay [0x68, 0x74, 0x74, 0x70, 0x3a, 0x2f, 0x2f, 0x2e, 0x65, 0x64, 0x75] 7 [2]) =
      some (.ok, .encoding 11 [2, 9]) := by decide

/-- SFX.10, `.net`. -/
theorem test_sfx10 :
    worked .sfx10 (underWay [0x68, 0x74, 0x74, 0x70, 0x3a, 0x2f, 0x2f, 0x2e, 0x6e, 0x65, 0x74] 7 [2]) =
      some (.ok, .encoding 11 [2, 10]) := by decide

/-- SFX.11, `.info`. -/
theorem test_sfx11 :
    worked .sfx11 (underWay [0x68, 0x74, 0x74, 0x70, 0x3a, 0x2f, 0x2f, 0x2e, 0x69, 0x6e, 0x66, 0x6f] 7 [2]) =
      some (.ok, .encoding 12 [2, 11]) := by decide

/-- SFX.12, `.biz`. -/
theorem test_sfx12 :
    worked .sfx12 (underWay [0x68, 0x74, 0x74, 0x70, 0x3a, 0x2f, 0x2f, 0x2e, 0x62, 0x69, 0x7a] 7 [2]) =
      some (.ok, .encoding 11 [2, 12]) := by decide

/-- SFX.13, `.gov`. -/
theorem test_sfx13 :
    worked .sfx13 (underWay [0x68, 0x74, 0x74, 0x70, 0x3a, 0x2f, 0x2f, 0x2e, 0x67, 0x6f, 0x76] 7 [2]) =
      some (.ok, .encoding 11 [2, 13]) := by decide

/-- R103 b: where `.com/` stands, SFX.7 does not act. -/
theorem test_sfx_order :
    worked .sfx7 (underWay [0x68, 0x74, 0x74, 0x70, 0x3a, 0x2f, 0x2f, 0x2e, 0x63, 0x6f, 0x6d, 0x2f] 7 [2]) = some (.ok, .encoding 7 [2]) := by decide

/-- R105: a token as 19th byte. -/
theorem test_sfx_full :
    worked .sfx8 (underWay [0x68, 0x74, 0x74, 0x70, 0x3a, 0x2f, 0x2f, 0x2e, 0x6f, 0x72, 0x67] 7 (List.replicate 18 2)) = some (.err .tooLong, .idle) := by decide


/-! ### The literal rows (R104, R105) -/

/-- The byte 0x23. -/
theorem test_lit23 :
    worked .lit23 (underWay [0x68, 0x74, 0x74, 0x70, 0x3a, 0x2f, 0x2f, 0x23] 7 [2]) =
      some (.ok, .encoding 8 [2, 0x23]) := by decide

/-- The byte 0x27. -/
theorem test_lit24to27 :
    worked (.lit24to27 3) (underWay [0x68, 0x74, 0x74, 0x70, 0x3a, 0x2f, 0x2f, 0x27] 7 [2]) =
      some (.ok, .encoding 8 [2, 0x27]) := by decide

/-- The byte 0x28. -/
theorem test_lit28to2f :
    worked (.lit28to2f 0) (underWay [0x68, 0x74, 0x74, 0x70, 0x3a, 0x2f, 0x2f, 0x28] 7 [2]) =
      some (.ok, .encoding 8 [2, 0x28]) := by decide

/-- The byte 0x3f. -/
theorem test_lit30to3f :
    worked (.lit30to3f 15) (underWay [0x68, 0x74, 0x74, 0x70, 0x3a, 0x2f, 0x2f, 0x3f] 7 [2]) =
      some (.ok, .encoding 8 [2, 0x3f]) := by decide

/-- The byte 0x5f. -/
theorem test_lit40to5f :
    worked (.lit40to5f 31) (underWay [0x68, 0x74, 0x74, 0x70, 0x3a, 0x2f, 0x2f, 0x5f] 7 [2]) =
      some (.ok, .encoding 8 [2, 0x5f]) := by decide

/-- The byte 0x60. -/
theorem test_lit60to6f :
    worked (.lit60to6f 0) (underWay [0x68, 0x74, 0x74, 0x70, 0x3a, 0x2f, 0x2f, 0x60] 7 [2]) =
      some (.ok, .encoding 8 [2, 0x60]) := by decide

/-- The byte 0x71. -/
theorem test_lit70to77 :
    worked (.lit70to77 1) (underWay [0x68, 0x74, 0x74, 0x70, 0x3a, 0x2f, 0x2f, 0x71] 7 [2]) =
      some (.ok, .encoding 8 [2, 0x71]) := by decide

/-- The byte 0x7b. -/
theorem test_lit78to7b :
    worked (.lit78to7b 3) (underWay [0x68, 0x74, 0x74, 0x70, 0x3a, 0x2f, 0x2f, 0x7b] 7 [2]) =
      some (.ok, .encoding 8 [2, 0x7b]) := by decide

/-- The byte 0x7d. -/
theorem test_lit7cto7d :
    worked (.lit7cto7d 1) (underWay [0x68, 0x74, 0x74, 0x70, 0x3a, 0x2f, 0x2f, 0x7d] 7 [2]) =
      some (.ok, .encoding 8 [2, 0x7d]) := by decide

/-- The byte 0x7e. -/
theorem test_lit7e :
    worked .lit7e (underWay [0x68, 0x74, 0x74, 0x70, 0x3a, 0x2f, 0x2f, 0x7e] 7 [2]) =
      some (.ok, .encoding 8 [2, 0x7e]) := by decide

/-- R104: a rejected byte raises, also at w = 18 (R107); another literal's row does nothing. -/
theorem test_lit_rejected :
    worked .lit23 (underWay [0x68, 0x74, 0x74, 0x70, 0x3a, 0x2f, 0x2f, 0x20] 7 (List.replicate 18 2)) = some (.err .invalidCharacter, .idle) ∧
    worked .lit7e (underWay [0x68, 0x74, 0x74, 0x70, 0x3a, 0x2f, 0x2f, 0x23] 7 [2]) = some (.ok, .encoding 7 [2]) := by decide


/-! ### Reserved stream values (R68, vector L8) and the copy of any stream byte -/

/-- T0.RESERVED: 0x07 at FR[13]. -/
theorem test_t0Reserved :
    frameByte (.t0Reserved 0x07) (copying 0x01 3 [0x07, 0x20, 0xff] 0) 13 = some (some 0x07, 1) := by decide

/-- TB.RESERVED: 0xff at FR[15]; ENCODE never produces it. -/
theorem test_tbReserved :
    frameByte (.tbReserved 0xff) (copying 0x01 3 [0x07, 0x20, 0xff] 2) 15 = some (some 0xff, 3) ∧
    worked (.tbReserved 0x20) (underWay [0x68, 0x74, 0x74, 0x70, 0x3a, 0x2f, 0x2f, 0x20] 7 [2]) = some (.ok, .encoding 7 [2]) := by decide

/-- A prefix row at position 0 and a literal row later are copied too. -/
theorem test_copy_tokens :
    frameByte .pfx2 (copying 0x01 2 [0x02, 0x61] 0) 13 = some (some 0x02, 1) ∧
    frameByte (.lit60to6f 1) (copying 0x01 2 [0x02, 0x61] 1) 14 = some (some 0x61, 2) := by decide


/-! ### Frame-type and AD rows (R71 to R73, R130) -/

set_option maxRecDepth 4000 in
/-- FRAME.UID lays out U1. -/
theorem test_frameUid :
    frameByte .frameUid (withId 0xed 10 6 [0x30, 0x31, 0x32, 0x33, 0x34, 0x35, 0x36, 0x37, 0x38, 0x39] [0x61, 0x62, 0x63, 0x64, 0x65, 0x66]) 28 = some (some 0x66, 0) ∧
    worked .frameUid State.reset = some (.err .invalidLength, .idle) := by decide

/-- FRAME.URL lays out L8; above 18 it raises TooLong. -/
theorem test_frameUrl :
    frameByte .frameUrl (withCu 0x01 3 [0x07, 0x20, 0xff]) 7 = some (some 0x07, 3) ∧
    worked .frameUrl (withCu 0x01 19 []) = some (.err .tooLong, .idle) := by decide

set_option maxRecDepth 4000 in
/-- FRAME.TLM lays out the temperature 0x8000. -/
theorem test_frameTlm :
    frameByte .frameTlm State.reset 15 = some (some 0x80, 0) := by decide

/-- The AD rows put their own bytes. -/
theorem test_ad_rows :
    frameByte .adFlags State.reset 2 = some (some 0x06, 0) ∧ frameByte .adUuid16List State.reset 6 = some (some 0xfe, 0) ∧
    frameByte (.adServiceData 0x14 .uid) State.reset 7 = some (some 0x14, 0) := by decide


/-! ### The host (vectors Z*, programs P2, P5) -/

/-- A write to the last byte of URLBUF that every capacity has, and its read. -/
theorem test_urlbuf_write_read :
    (nextOf (step { State.reset with pending := [.write (.urlbuf 113 0x61)] })).map
      (fun t => (t.urlbuf.read 113, t.urlbuf.read 112)) = some (0x61, 0x00) := by decide

/-- Z1: STATUS reads 0 after reset; the value goes to the host. -/
theorem test_status_read :
    (nextOf (step { State.reset with pending := [.read .status] })).map (fun t => t.replies) = some [.byte 0] := by decide

/-- The start of P1's stream, and P4's: LOAD_URL presents the text, ENCODE and RD STATUS follow. -/
theorem test_beacon_url_stops_on_failure :
    (nextOf (serveStages (beaconUrl 0xed [0x68, 0x74, 0x74, 0x70, 0x3a, 0x2f, 0x2f, 0x62, 0x20, 0x63]) State.reset)).map (fun t => (t.replies, t.txpower)) =
      some ([.byte 2], 0x00) := by decide

/-- A reset clears what was built (R200). -/
theorem test_reset_event :
    (nextOf (step { State.reset with fr := putAdFlags zeroFrame, pending := [.reset] })).map (fun t => t.fr) =
      some zeroFrame := by decide

/-! ### For each statement with hypotheses: a state and operands that meet all of them -/

/-- `http://` -/
def http : List Byte := [0x68, 0x74, 0x74, 0x70, 0x3a, 0x2f, 0x2f]

/-- `http://a.com` -/
def httpACom : List Byte := http ++ [0x61, 0x2e, 0x63, 0x6f, 0x6d]

/-- `http://www.x` -/
def httpWww : List Byte := http ++ [0x77, 0x77, 0x77, 0x2e, 0x78]

/-- Reset with one event presented. -/
def presents (e : Event) : State := State.reset.setPending [e]

theorem meets_ResetEventRestoresEveryRegister : (presents .reset).pending = .reset :: [] := rfl

theorem meets_StepRunsTheDecodedInstruction :
    (presents (.cmd 0x20)).pending = .cmd 0x20 :: [] ∧ decode .cmd [0x20] = .ok (.buildTlm, []) ∧
    (presents (.micro .ad [0x02, 0x01, 0x06])).pending = .micro .ad [0x02, 0x01, 0x06] :: [] ∧
    decode .ad [0x02, 0x01, 0x06] = .ok (.adFlags, []) := by decide

theorem meets_NothingPresentedNothingChanges : State.reset.pending = [] := rfl

theorem meets_CommandByteSelectsTheCommand : (presents (.cmd 0x81)).pending = .cmd 0x81 :: [] := rfl

/-- All five rows of format CMD, for the statements about every command. -/
theorem meets_isCommand :
    [Instr.buildUid, .buildUrl, .buildTlm, .encode, .cmdReserved 0x30].all isCommand = true := by decide

theorem meets_BuildUidWritesTheUidFrame : (withId 0xed 10 6 [] []).nidlen = 10#8 ∧ (withId 0xed 10 6 [] []).bidlen = 6#8 :=
  ⟨rfl, rfl⟩

/-- CULEN at both ends of the accepted range. -/
theorem meets_BuildUrlWritesTheUrlFrame :
    State.reset.culen.toNat ≤ 18 ∧ (withCu 0xed 18 []).culen.toNat ≤ 18 ∧ (withCu 0xed 18 []).culen.toNat = 18 := by decide

/-- Each clause holds of two different states with the same operands. -/
theorem meets_BuildersArePureInTheirOperands :
    let s := withUrl http
    s ≠ State.reset ∧
    (s.txpower = State.reset.txpower ∧ s.nidbuf = State.reset.nidbuf ∧ s.nidlen = State.reset.nidlen ∧
      s.bidbuf = State.reset.bidbuf ∧ s.bidlen = State.reset.bidlen) ∧
    (s.cu = State.reset.cu ∧ s.culen = State.reset.culen) ∧
    (s.advcnt = State.reset.advcnt ∧ s.elapsed = State.reset.elapsed) := by decide

/-- The pseudocode's run on `http://`: prefix 2, nothing behind it. -/
theorem meets_EncodeCompletesWithTheOutput : EncodeRun (withUrl http).url (.ok [0x02]) :=
  .body 2 _ ((firstMatch_eq_some _ _ _ _).1 (by decide)) (.finish [0x02])

/-- The scan comes to the space of `http:// `. -/
theorem meets_InvalidCharacterExactlyAtARejectedBodyByte :
    Reached (withUrl (http ++ [0x20])).url 7 [0x02] ∧ FirstAt pfxRom (withUrl (http ++ [0x20])).url 0 2 ∧
      RejectedAt (withUrl (http ++ [0x20])).url 7 :=
  have first := (firstMatch_eq_some _ _ _ _).1 (by decide)
  ⟨.start 2 first, first, ⟨0x20, by decide, by decide⟩⟩

/-- Two different states with one URL: bytes beyond URLLEN are no part of it. -/
theorem meets_EncodeIsPureInTheUrl :
    (withUrl http).url = { withUrl (http ++ [0x61]) with urllen := 7 }.url ∧
      withUrl http ≠ { withUrl (http ++ [0x61]) with urllen := 7 } := by decide

theorem meets_PrintableUrlIsEncodedOrTooLong :
    Matches (withUrl httpACom).url (romEntry pfxRom 2) 0 ∧
      ∀ c b, (romEntry pfxRom 2).length ≤ c → (withUrl httpACom).url[c]? = some b → isLiteral b = true := by
  refine ⟨(matchesAt_iff _ _ _).1 (by decide), fun c b _ hb => ?_⟩
  have all : (withUrl httpACom).url.all isLiteral = true := by decide
  exact List.all_eq_true.1 all b (List.mem_of_getElem? hb)

theorem meets_NoUrlAbove114BytesIsEncoded : 114 < ({ State.reset with urllen := 115 } : State).urllen := by decide

/-- Two entries match at one position, in each table: `http://www.` and `http://`, `.com/` and `.com`. -/
theorem meets_FirstMatchIsTheLongestMatch :
    firstMatch pfxRom httpWww 0 = some 0 ∧ Matches httpWww (romEntry pfxRom 2) 0 ∧
    firstMatch sfxRom [0x2e, 0x63, 0x6f, 0x6d, 0x2f] 0 = some 0 ∧
    Matches [0x2e, 0x63, 0x6f, 0x6d, 0x2f] (romEntry sfxRom 7) 0 :=
  ⟨by decide, (matchesAt_iff _ _ _).1 (by decide), by decide, (matchesAt_iff _ _ _).1 (by decide)⟩

/-- ENCODE fails on a state that holds an earlier stream. -/
theorem meets_FailedEncodeLeavesTheOldStream :
    (nextOf (exec .encode (withCu 0xc5 3 [0x02, 0x61, 0x08]))).map (fun t => t.status) =
      some (.err .invalidPrefix) := by decide

theorem meets_PrefixRowsEmitTheMatchedPrefix :
    (.pfx4, 4) ∈ prefixRows ∧ (withUrl [0x75, 0x72, 0x6e, 0x3a, 0x75, 0x75, 0x69, 0x64, 0x3a]).work = .idle ∧
      FirstAt pfxRom (withUrl [0x75, 0x72, 0x6e, 0x3a, 0x75, 0x75, 0x69, 0x64, 0x3a]).url 0 4 :=
  ⟨by decide, rfl, (firstMatch_eq_some _ _ _ _).1 (by decide)⟩

/-- One state for each clause: no prefix, another prefix, ENCODE under way. -/
theorem meets_PrefixRowsElsewhere :
    (State.reset.work = .idle ∧ NoneAt pfxRom State.reset.url 0) ∧
    ((withUrl httpWww).work = .idle ∧ FirstAt pfxRom (withUrl httpWww).url 0 0 ∧ 0 ≠ 2) ∧
    (underWay http 7 [2]).work = .encoding 7 [2] :=
  ⟨⟨rfl, (firstMatch_eq_none _ _ _).1 (by decide)⟩, ⟨rfl, (firstMatch_eq_some _ _ _ _).1 (by decide), by decide⟩, rfl⟩

/-- `.com` at position 8 of `http://a.com`, with room and at w = 17 and 18. -/
theorem meets_SuffixRowsEmitTheMatchedSuffix :
    (.sfx7, 7) ∈ suffixRows ∧ (underWay httpACom 8 [2, 0x61]).work = .encoding 8 [2, 0x61] ∧
      FirstAt sfxRom (underWay httpACom 8 [2, 0x61]).url 8 7 ∧ [2#8, 0x61].length ≠ 18 ∧
      (List.replicate 17 2#8).length ≠ 18 ∧ (List.replicate 18 2#8).length = 18 :=
  ⟨by decide, rfl, (firstMatch_eq_some _ _ _ _).1 (by decide), by decide, by decide, by decide⟩

/-- `.com/` at position 8, where SFX.7 is not the first match; `a` at 7, where none matches; the end of the
input; an idle block. -/
theorem meets_SuffixRowsElsewhere :
    (.sfx7, 7) ∈ suffixRows ∧ FirstAt sfxRom (underWay (httpACom ++ [0x2f]) 8 [2, 0x61]).url 8 0 ∧ 0 ≠ 7 ∧
      NoneAt sfxRom (underWay httpACom 7 [2]).url 7 ∧ (underWay http 7 [2]).url.length ≤ 7 ∧ (withUrl http).work = .idle :=
  ⟨by decide, (firstMatch_eq_some _ _ _ _).1 (by decide), by decide, (firstMatch_eq_none _ _ _).1 (by decide),
    by decide, rfl⟩

/-- At `.com/` the token is 0x00, not 0x07 (R103 b): SFX.7 changes nothing there. -/
theorem test_sfx7_yields_to_sfx0 :
    worked .sfx7 (underWay (httpACom ++ [0x2f]) 8 [2, 0x61]) = some (.ok, .encoding 8 [2, 0x61]) := by decide

/-- `a` at position 7 of `http://a.com`. -/
theorem meets_LiteralRowsEmitTheByteAtTheCursor :
    LiteralRow (.lit60to6f 1) 0x61 ∧ (underWay httpACom 7 [2]).work = .encoding 7 [2] ∧
      NoneAt sfxRom (underWay httpACom 7 [2]).url 7 ∧ (underWay httpACom 7 [2]).url[7]? = some 0x61 :=
  ⟨.lit60to6f 1, rfl, (firstMatch_eq_none _ _ _).1 (by decide), by decide⟩

/-- One state for each clause: a rejected byte, another literal, a suffix, the end of the input, idle. -/
theorem meets_LiteralRowsElsewhere :
    LiteralRow .lit7e 0x7e ∧
    (NoneAt sfxRom (underWay (http ++ [0x22]) 7 [2]).url 7 ∧ RejectedAt (underWay (http ++ [0x22]) 7 [2]).url 7) ∧
    (NoneAt sfxRom (underWay httpACom 7 [2]).url 7 ∧ LiteralAt (underWay httpACom 7 [2]).url 7 0x61 ∧ 0x61#8 ≠ 0x7e) ∧
    FirstAt sfxRom (underWay httpACom 8 [2]).url 8 7 ∧ (underWay http 7 [2]).url.length ≤ 7 ∧
    (withUrl http).work = .idle :=
  ⟨.lit7e, ⟨(firstMatch_eq_none _ _ _).1 (by decide), ⟨0x22, by decide, by decide⟩⟩,
    ⟨(firstMatch_eq_none _ _ _).1 (by decide), ⟨by decide, by decide, by decide⟩, by decide⟩,
    (firstMatch_eq_some _ _ _ _).1 (by decide), by decide, rfl⟩

/-- The first and the last place of an 18-byte stream. -/
theorem meets_ReservedStreamBytesAreCopied :
    State.reset.work = .idle ∧ (underWay http 7 [2]).work = .encoding 7 [2] ∧
    let cu := List.replicate 18 0xff#8
    let f := putPre 22#8 0x10#8 zeroFrame
    (copying 0x01 18 cu 0).work = .building f 0 ∧ (copying 0x01 18 cu 17).work = .building f 17 ∧ f[11] = 0x10#8 ∧
      17 < (copying 0x01 18 cu 17).culen.toNat ∧ (copying 0x01 18 cu 0).cu[0]? = some 0xff ∧
      (copying 0x01 18 cu 17).cu[17]? = some 0xff :=
  ⟨rfl, rfl, rfl, rfl, by decide, by decide, by decide, by decide⟩

theorem meets_StreamRowsAreCopiedUnexamined :
    encode .pfx2 = [0x02] ∧ formatOf .pfx2 = .t0 ∧ encode .sfx2 = [0x02] ∧ formatOf .sfx2 = .tb ∧
      (copying 0x01 2 [0x02, 0x02] 0).cu[0]? = some 0x02 ∧ 0 < (copying 0x01 2 [0x02, 0x02] 0).culen.toNat ∧
      (copying 0x01 2 [0x02, 0x02] 1).cu[1]? = some 0x02 ∧ 1 < (copying 0x01 2 [0x02, 0x02] 1).culen.toNat := by decide

/-- Stream rows whose byte is not the one to copy next: a T0 row at position 1, a TB row at position 0, k at
CULEN, another byte in CU[1], and a TLM frame. -/
theorem meets_StreamRowsAreCopiedUnexamined_elsewhere :
    (formatOf .pfx2 = .t0 ∧ 0 < 1) ∧ formatOf .sfx2 = .tb ∧ (copying 0x01 2 [0x02, 0x02] 2).culen.toNat ≤ 2 ∧
      (copying 0x01 2 [0x02, 0x03] 1).cu[1]? ≠ some 0x02 ∧ (putPre 17#8 0x20#8 zeroFrame)[11] ≠ 0x10#8 := by decide

/-- BUILD_URL's copy loop leaves F as it is for a row that is not next (R132). -/
theorem test_stream_rows_not_next :
    frameByte .pfx2 (copying 0x01 2 [0x02, 0x02] 1) 14 = some (some 0x00, 1) ∧
      frameByte .sfx2 (copying 0x01 2 [0x02, 0x02] 2) 15 = some (some 0x00, 2) := by decide

theorem meets_FrameRowsLayOutTheBuiltFrame :
    (∀ c out, (withId 0xed 10 6 [] []).work ≠ .encoding c out) ∧ (withId 0xed 10 6 [] []).nidlen = 10#8 ∧
      (withId 0xed 10 6 [] []).bidlen = 6#8 ∧ (withId 0xed 10 6 [] []).culen.toNat ≤ 18 :=
  ⟨fun _ _ h => by simp [withId, State.reset] at h, rfl, rfl, by decide⟩

/-- Lengths 10 and 5, a CULEN of 19, and an ENCODE under way. -/
theorem meets_FrameAndAdRowsElsewhere :
    (∀ c out, (withId 0xed 10 5 [] []).work ≠ .encoding c out) ∧ (withId 0xed 10 5 [] []).bidlen ≠ 6#8 ∧
      18 < (withCu 0x01 19 []).culen.toNat ∧
      (State.reset.setWork (.encoding 7 [0x02])).work = .encoding 7 [0x02] ∧ formatOf .adFlags = .ad :=
  ⟨fun _ _ h => by simp [withId, State.reset] at h, by decide, by decide, rfl, rfl⟩

/-- FRAME.UID with a wrong length raises InvalidLength (R131), and nothing while ENCODE runs (R4). -/
theorem test_frameUid_elsewhere :
    (nextOf (exec .frameUid (withId 0xed 9 6 [] []))).map (·.status) = some (.err .invalidLength) ∧
      (nextOf (exec .frameUid (State.reset.setWork (.encoding 7 [0x02])))).map (·.work) = some (.encoding 7 [0x02]) := by
  decide

theorem meets_UuidStandsLowByteFirstTwice :
    (nextOf (exec .buildUrl State.reset)).map (·.status) = some .ok := by decide

theorem meets_PreambleIsTheThreeAdRows :
    (State.reset.setWork (.building zeroFrame 0)).work = .building zeroFrame 0 := rfl

theorem meets_AdRowsWriteTheirOwnBytes :
    (State.reset.setWork (.building zeroFrame 3)).work = .building zeroFrame 3 ∧
      State.reset.work = .idle ∧ zeroFrame = Vector.replicate 31 0x00#8 := ⟨rfl, rfl, rfl⟩

theorem meets_MicroRowsTouchOnlyWorkAndStatus :
    [Instr.pfx0, .sfx13, .lit7e, .t0Reserved 5, .tbReserved 14, .frameTlm, .adServiceData 20 .uid].all
      (fun i => !isCommand i) = true := by decide

/-- An idle block with a URL that is encoded. -/
theorem meets_EncodeIsItsMicroOperations :
    (withUrl httpACom).work = .idle ∧ encoded httpACom = some (.ok, 3#8, [0x02, 0x61, 0x07]) := by decide

theorem meets_BuildUrlIsItsMicroOperations :
    (withCu 0x01 18 []).work = .idle ∧ (withCu 0x01 18 []).culen.toNat ≤ 18 := by decide

theorem meets_DecodeOfEncodeIsIdentity : Instr.wf (.adServiceData 4#8 .url) = true ∧ Instr.wf (.tbReserved 0xff) = true := by
  decide

theorem meets_DecodedBytesAreTheEncoding : decode .tb [0x7e, 0x00] = .ok (.lit7e, [0x00]) := by decide

/-- A write of every kind, at the ends of their ranges. -/
theorem meets_HostWriteStoresExactlyTheValue :
    State.reset.urlbuf.wf ∧ [HostWrite.urlbuf 113 0xff, .urllen 114, .txpower 0xed, .nidbuf 9 0xff, .nidlen 255, .bidbuf 5 0,
      .bidlen 255, .advcnt 0xffffffff, .elapsed 0, .cu 17 0xff, .culen 255].all (fun w => hostMove (.write w)) = true := by
  decide

theorem meets_HostReadChangesNoRegister :
    [HostRead.urlbuf 113, .urllen, .fr 30, .status].all (fun r => hostMove (.read r)) = true := by decide

/-- URL_MAX itself is the first index that does not exist, and URL_MAX + 1 the first URLLEN. -/
theorem meets_MovesTheHostLacksStop :
    Config.urlMax ≤ Config.urlMax ∧ Config.urlMax < Config.urlMax + 1 := ⟨Nat.le_refl _, Nat.lt_succ_self _⟩

theorem meets_LoadUrlPresentsTheText : State.reset.urlbuf.wf ∧ http.length ≤ Config.urlMax :=
  ⟨reset_urlbuf_wf, Nat.le_trans (by decide) Config.urlMax_ge⟩

/-- A good state that is not the reset state, and a step from it. -/
theorem meets_EveryStepKeepsTheInvariant :
    State.Inv ((withCu 0x01 3 [0x07, 0x20, 0xff]).setPending [.cmd 0x10]) ∧
      ∃ t, step ((withCu 0x01 3 [0x07, 0x20, 0xff]).setPending [.cmd 0x10]) = .next t :=
  ⟨⟨by decide, fun x hx => by simp [withCu, State.setPending, State.reset] at hx, Nat.zero_le _, by decide, by decide⟩, ⟨_, rfl⟩⟩

theorem meets_HostMovesNeverStopTheMachine : (presents (.cmd 0x80)).quiet :=
  ⟨rfl, fun e he => by simp [presents, State.setPending] at he; subst he; rfl⟩

end Sys2Proof.Tests
end

section
/-! PROOFS of the family of `10_state.md`: which rows are commands, and what a command's outcome does not
depend on. -/

namespace Sys2Proof.Machine

/-- The rows of format CMD (R61, R62). -/
theorem isCommand_iff (i : Instr) :
    isCommand i = true ↔
      i = .buildUid ∨ i = .buildUrl ∨ i = .buildTlm ∨ i = .encode ∨ ∃ code, i = .cmdReserved code := by
  cases i <;> simp [isCommand, formatOf]

/-- Raising overwrites both STATUS and the working variables (R187). -/
theorem raise_ignores_status_work (k : ErrKind) (s : State) (r : ResultKind) (w : Work) :
    raise k { s with status := r, work := w } = raise k s := rfl

/-- The end of a build overwrites both on either exit (R135, R187). -/
theorem endBuild_ignores_status_work (res : Except ErrKind Frame) (s : State) (r : ResultKind) (w : Work) :
    endBuild res { s with status := r, work := w } = endBuild res s := by
  cases res with
  | error k => rw [endBuild_error, endBuild_error]
  | ok f => rw [endBuild_ok, endBuild_ok]

/-- The end of ENCODE overwrites both on either exit (R106, R187). -/
theorem endEncode_ignores_status_work (res : Except ErrKind (List Byte)) (s : State) (r : ResultKind) (w : Work) :
    endEncode res { s with status := r, work := w } = endEncode res s := by
  cases res with
  | error k => rw [endEncode_error, endEncode_error]
  | ok out => rw [endEncode_ok, endEncode_ok]

/-- BUILD_UID's result is a function of its operands (R131). -/
theorem assembleUid_ignores_status_work (s : State) (r : ResultKind) (w : Work) :
    assembleUid { s with status := r, work := w } = assembleUid s := rfl

/-- BUILD_URL's result is a function of its operands (R132). -/
theorem assembleUrl_ignores_status_work (s : State) (r : ResultKind) (w : Work) :
    assembleUrl { s with status := r, work := w } = assembleUrl s := rfl

/-- ENCODE's input is URLBUF and URLLEN alone (R100). -/
theorem url_ignores_status_work (s : State) (r : ResultKind) (w : Work) :
    ({ s with status := r, work := w } : State).url = s.url := rfl

/-- Settles O8: each command computes its result from its operand registers, and its end overwrites STATUS
and the working variables whatever they held. -/
theorem commandsIgnoreEarlierResults : Obligations.CommandsIgnoreEarlierResults := by
  intro i s r w hcmd
  obtain rfl | rfl | rfl | rfl | ⟨code, rfl⟩ := (isCommand_iff i).1 hcmd
  · rw [exec_buildUid, exec_buildUid, assembleUid_ignores_status_work, endBuild_ignores_status_work]
  · rw [exec_buildUrl, exec_buildUrl, assembleUrl_ignores_status_work, endBuild_ignores_status_work]
  · rw [exec_buildTlm, exec_buildTlm, endBuild_ignores_status_work]
  · rw [exec_encode, exec_encode, url_ignores_status_work, endEncode_ignores_status_work]
  · rw [exec_cmdReserved, exec_cmdReserved, raise_ignores_status_work]

end Sys2Proof.Machine
end

section
/-! PROOFS of the family of `20_memory.md`: the byte order of the service UUID in a built frame. -/

namespace Sys2Proof.Machine

/-- FR[5..6] = FR[9..10] = LE16(0xFEAA), for any frame (R43). -/
def CarriesUuid (f : Frame) : Prop :=
  [f[5], f[6]] = le16 eddyUuid ∧ [f[9], f[10]] = le16 eddyUuid

/-- The preamble alone fixes the UUID's bytes: no payload from offset 12 on reaches them (R50, R130). -/
theorem carriesUuid_payload (l t : Byte) (bs : List Byte) (h : bs.length ≤ 19) :
    CarriesUuid (putBytes (putPre l t zeroFrame) 12 bs) := by
  have byteAt := getElem_eq_of_toList _ _ (toList_payload l t bs h)
  have h5 := Option.some.inj (byteAt 5 (by decide))
  have h6 := Option.some.inj (byteAt 6 (by decide))
  have h9 := Option.some.inj (byteAt 9 (by decide))
  have h10 := Option.some.inj (byteAt 10 (by decide))
  rw [CarriesUuid, ← h5, ← h6, ← h9, ← h10]
  exact ⟨rfl, rfl⟩

/-- BUILD_UID commits no other frame (R131). -/
theorem carriesUuid_of_assembleUid (s : State) (f : Frame) (hf : assembleUid s = .ok f) : CarriesUuid f := by
  obtain ⟨-, herr⟩ | ⟨-, -, hok⟩ := assembleUid_cases s
  · cases herr.symm.trans hf
  · cases hok.symm.trans hf
    exact carriesUuid_payload _ _ _ (by simp)

/-- BUILD_URL commits no other frame (R132): its re-check of CULEN keeps the stream inside the payload. -/
theorem carriesUuid_of_assembleUrl (s : State) (f : Frame) (hf : assembleUrl s = .ok f) : CarriesUuid f := by
  obtain ⟨-, herr⟩ | ⟨hlen, hok⟩ := assembleUrl_cases s
  · cases herr.symm.trans hf
  · cases hok.symm.trans hf
    have hstream := length_stream s hlen
    exact carriesUuid_payload _ _ _ (by simp; omega)

/-- Format TLM, whatever the counters (R73). -/
theorem carriesUuid_tlmFrame (adv sec : Counter) : CarriesUuid (tlmFrame adv sec) :=
  carriesUuid_payload _ _ _ (by simp [tlmFixed, be16, be32])

/-- What holds of every frame a builder assembles holds of FR after the build succeeds (R135). -/
theorem endBuild_fr_of_status_ok {P : Frame → Prop} (res : Except ErrKind Frame) (s : State)
    (hP : ∀ f, res = .ok f → P f) (hs : (endBuild res s).status = .ok) : P (endBuild res s).fr := by
  cases res with
  | error k => rw [endBuild_error] at hs; cases hs
  | ok f => exact hP f rfl

/-- Each build command ends in a state whose FR carries the UUID if the build succeeded (R43). -/
theorem exec_build_carriesUuid (i : Instr) (s : State) (hi : i = .buildUid ∨ i = .buildUrl ∨ i = .buildTlm) :
    ∃ t, exec i s = .next t ∧ (t.status = .ok → CarriesUuid t.fr) := by
  obtain rfl | rfl | rfl := hi
  · exact ⟨_, exec_buildUid s, endBuild_fr_of_status_ok _ s (carriesUuid_of_assembleUid s)⟩
  · exact ⟨_, exec_buildUrl s, endBuild_fr_of_status_ok _ s (carriesUuid_of_assembleUrl s)⟩
  · exact ⟨_, exec_buildTlm s, fun _ => carriesUuid_tlmFrame s.advcnt s.elapsed⟩

/-- Settles O17: every frame a builder commits is the preamble with a payload behind it, and the preamble
lays LE16(0xFEAA), the bytes AA FE, at both places. -/
theorem uuidStandsLowByteFirstTwice : Obligations.UuidStandsLowByteFirstTwice := by
  intro i s hi
  obtain ⟨t, ht, huuid⟩ := exec_build_carriesUuid i s hi
  refine ⟨t, ht, fun hs => ?_⟩
  obtain ⟨hlist, hdata⟩ := huuid hs
  have hbytes : le16 eddyUuid = [0xaa#8, 0xfe#8] := by decide
  simp only [hbytes, List.cons.injEq, and_true] at hlist hdata
  obtain ⟨h5, h6⟩ := hlist
  obtain ⟨h9, h10⟩ := hdata
  exact ⟨h5, h6, h9, h10, h5, h6, h9, h10⟩

end Sys2Proof.Machine
end

section
/-! PROOFS of the family of `40_url_token_codec.md`: what ENCODE's end leaves and depends on, and how the
entries of one table that match at one position lie to each other. -/

namespace Sys2Proof.Machine

/-- ENCODE's end leaves the input in place, on either exit (R106, R187). -/
@[simp] theorem url_endEncode (res : Except ErrKind (List Byte)) (s : State) : (endEncode res s).url = s.url := by
  cases res with
  | error k => rw [endEncode_error]; rfl
  | ok out => rw [endEncode_ok]; rfl

/-- STATUS after ENCODE is a function of the codec's result (R106, R187). -/
theorem status_endEncode_eq (res : Except ErrKind (List Byte)) (s₁ s₂ : State) :
    (endEncode res s₁).status = (endEncode res s₂).status := by
  cases res with
  | error k => simp only [endEncode_error]
  | ok out => simp only [endEncode_ok]

/-- So are CU and CULEN after an ENCODE that succeeds (R106). -/
theorem cu_endEncode_eq_of_status_ok (res : Except ErrKind (List Byte)) (s₁ s₂ : State)
    (hs : (endEncode res s₁).status = .ok) :
    (endEncode res s₁).cu = (endEncode res s₂).cu ∧ (endEncode res s₁).culen = (endEncode res s₂).culen := by
  cases res with
  | error k => rw [endEncode_error] at hs; cases hs
  | ok out => simp only [endEncode_ok, and_self]

/-- ENCODE's end writes CU, CULEN, STATUS and the working variables, on either exit (R115). -/
theorem endEncode_frame (res : Except ErrKind (List Byte)) (s : State) :
    endEncode res s = { s with
      cu := (endEncode res s).cu, culen := (endEncode res s).culen, status := (endEncode res s).status,
      work := .idle } := by
  cases res with
  | error k => simp only [endEncode_error]
  | ok out => simp only [endEncode_ok]

/-- Ending twice with one result is ending once. -/
theorem endEncode_idempotent (res : Except ErrKind (List Byte)) (s : State) :
    endEncode res (endEncode res s) = endEncode res s := by
  cases res with
  | error k => simp only [endEncode_error]
  | ok out => simp only [endEncode_ok]

/-- Settles O25: the codec sees the URL alone, and its end keeps the URL, writes the three registers, and
writes the same again when ENCODE is run again. -/
theorem encodeIsPureInTheUrl : Obligations.EncodeIsPureInTheUrl := by
  intro s₁ s₂ hurl
  refine ⟨_, _, exec_encode s₁, exec_encode s₂, ?_, ?_, endEncode_frame _ s₁, ?_⟩
  · rw [hurl]
    exact status_endEncode_eq _ s₁ s₂
  · rw [hurl]
    exact cu_endEncode_eq_of_status_ok _ s₁ s₂
  · rw [exec_encode, url_endEncode, endEncode_idempotent]

/-- An entry that matches is what the rest of the input begins with (R101). -/
theorem Matches.prefix_drop {url t : List Byte} {c : Nat} (h : Matches url t c) : t <+: url.drop c := by
  have hbool := (matchesAt_iff url t c).2 h
  rw [matchesAt, Bool.and_eq_true, decide_eq_true_eq, decide_eq_true_eq] at hbool
  exact List.prefix_iff_eq_take.2 hbool.2.symm

/-- The order of both tables: no entry is the beginning of a later one, so an entry stands before everything
it can be cut down to (R108). -/
theorem romEntry_not_prefix_of_later (rom : List (List Byte)) (hrom : rom = pfxRom ∨ rom = sfxRom) :
    ∀ j < rom.length, ∀ i < j, ¬ romEntry rom i <+: romEntry rom j := by
  obtain rfl | rfl := hrom
  · decide
  · decide

/-- Of two entries that match at one position, the later is the earlier with bytes cut from its end (R108). -/
theorem earlier_match_extends_later {rom : List (List Byte)} {url : List Byte} {c i j : Nat}
    (hrom : rom = pfxRom ∨ rom = sfxRom) (hij : i < j) (hj : j < rom.length)
    (hmi : Matches url (romEntry rom i) c) (hmj : Matches url (romEntry rom j) c) :
    ∃ more, more ≠ [] ∧ romEntry rom i = romEntry rom j ++ more := by
  have hnot : ¬ romEntry rom i <+: romEntry rom j := romEntry_not_prefix_of_later rom hrom j hj i hij
  obtain hpre | ⟨more, hmore⟩ := List.prefix_or_prefix_of_prefix hmi.prefix_drop hmj.prefix_drop
  · exact absurd hpre hnot
  · refine ⟨more, ?_, hmore.symm⟩
    rintro rfl
    rw [List.append_nil] at hmore
    exact hnot (hmore ▸ List.prefix_refl _)

/-- Settles O31: the search answers the first matching entry, and two matching entries both begin the rest of
the input, so one begins the other; the tables' order leaves only the later beginning the earlier. -/
theorem firstMatchIsTheLongestMatch : Obligations.FirstMatchIsTheLongestMatch := by
  intro rom url c i j hrom hfirst hj hmj
  obtain ⟨-, hmi, hnone⟩ := (firstMatch_eq_some ..).1 hfirst
  have hle : i ≤ j := not_lt.1 fun hlt => hnone j hlt hmj
  exact ⟨hmi, hle, fun hne => earlier_match_extends_later hrom (lt_of_le_of_ne hle hne) hj hmi hmj⟩

end Sys2Proof.Machine
end

section
/-! PROOFS of the family of `41_frame_builder.md`: what a build's result depends on, and what its end
writes. -/

namespace Sys2Proof.Machine

/-- BUILD_UID reads the five registers R131 names and no other. -/
theorem assembleUid_eq_of_operands {s₁ s₂ : State} (htx : s₁.txpower = s₂.txpower) (hnid : s₁.nidbuf = s₂.nidbuf)
    (hnl : s₁.nidlen = s₂.nidlen) (hbid : s₁.bidbuf = s₂.bidbuf) (hbl : s₁.bidlen = s₂.bidlen) :
    assembleUid s₁ = assembleUid s₂ := by
  rw [assembleUid, assembleUid, htx, hnid, hnl, hbid, hbl]

/-- BUILD_URL reads the three registers R132 names and no other. -/
theorem assembleUrl_eq_of_operands {s₁ s₂ : State} (htx : s₁.txpower = s₂.txpower) (hcu : s₁.cu = s₂.cu)
    (hlen : s₁.culen = s₂.culen) : assembleUrl s₁ = assembleUrl s₂ := by
  have hstream : s₁.stream = s₂.stream := by rw [State.stream, State.stream, hcu, hlen]
  rw [assembleUrl, assembleUrl, htx, hlen, hstream]

/-- STATUS after a build is a function of the assembly's result (R135, R187). -/
theorem status_endBuild_eq (res : Except ErrKind Frame) (s₁ s₂ : State) :
    (endBuild res s₁).status = (endBuild res s₂).status := by
  cases res with
  | error k => simp only [endBuild_error]
  | ok f => simp only [endBuild_ok]

/-- So is the whole of FR after a build that succeeds: no byte of the old FR survives (R134, R135). -/
theorem fr_endBuild_eq_of_status_ok (res : Except ErrKind Frame) (s₁ s₂ : State)
    (hs : (endBuild res s₁).status = .ok) : (endBuild res s₁).fr = (endBuild res s₂).fr := by
  cases res with
  | error k => rw [endBuild_error] at hs; cases hs
  | ok f => simp only [endBuild_ok]

/-- A build's end writes FR, STATUS and the working variables, on either exit (R135). -/
theorem endBuild_frame (res : Except ErrKind Frame) (s : State) :
    endBuild res s = { s with fr := (endBuild res s).fr, status := (endBuild res s).status, work := .idle } := by
  cases res with
  | error k => simp only [endBuild_error]
  | ok f => simp only [endBuild_ok]

/-- Settles O18: equal operands give one assembly result for both states, and a build's end takes STATUS and
FR from that result and keeps everything else. -/
theorem buildersArePureInTheirOperands : Obligations.BuildersArePureInTheirOperands := by
  intro i s₁ s₂ hops
  obtain ⟨res, h₁, h₂⟩ :
      ∃ res, exec i s₁ = .next (endBuild res s₁) ∧ exec i s₂ = .next (endBuild res s₂) := by
    obtain ⟨rfl, htx, hnid, hnl, hbid, hbl⟩ | ⟨rfl, htx, hcu, hlen⟩ | ⟨rfl, hadv, hsec⟩ := hops
    · exact ⟨_, exec_buildUid s₁, assembleUid_eq_of_operands htx hnid hnl hbid hbl ▸ exec_buildUid s₂⟩
    · exact ⟨_, exec_buildUrl s₁, assembleUrl_eq_of_operands htx hcu hlen ▸ exec_buildUrl s₂⟩
    · refine ⟨_, exec_buildTlm s₁, ?_⟩
      rw [hadv, hsec, exec_buildTlm]
  exact ⟨_, _, h₁, h₂, status_endBuild_eq res s₁ s₂, fr_endBuild_eq_of_status_ok res s₁ s₂,
    endBuild_frame res s₁, endBuild_frame res s₂⟩

end Sys2Proof.Machine
end

section
/-! PROOFS of the family of `60_exceptions.md`: when ENCODE raises InvalidPrefix and InvalidCharacter, and
when BUILD_UID raises InvalidLength. -/

namespace Sys2Proof.Machine

/-! ### STATUS names the kind the command's result has (R187) -/

/-- ENCODE's end puts an error into STATUS exactly when the codec answers that error. -/
theorem status_endEncode_eq_err_iff (res : Except ErrKind (List Byte)) (s : State) (k : ErrKind) :
    (endEncode res s).status = .err k ↔ res = .error k := by
  cases res with
  | error e => simp only [endEncode_error, ResultKind.err.injEq, Except.error.injEq]
  | ok out => simp only [endEncode_ok, reduceCtorEq]

/-- A build's end puts an error into STATUS exactly when the assembly answers that error. -/
theorem status_endBuild_eq_err_iff (res : Except ErrKind Frame) (s : State) (k : ErrKind) :
    (endBuild res s).status = .err k ↔ res = .error k := by
  cases res with
  | error e => simp only [endBuild_error, ResultKind.err.injEq, Except.error.injEq]
  | ok f => simp only [endBuild_ok, reduceCtorEq]

/-! ### BUILD_UID -/

/-- The precondition of R131 is the only one, and its kind is InvalidLength. -/
theorem assembleUid_eq_invalidLength_iff (s : State) :
    assembleUid s = .error .invalidLength ↔ s.nidlen ≠ 10#8 ∨ s.bidlen ≠ 6#8 := by
  obtain ⟨hwrong, herr⟩ | ⟨hnid, hbid, hok⟩ := assembleUid_cases s
  · exact iff_of_true herr hwrong
  · simp [hok, hnid, hbid]

/-- Settles O12: BUILD_UID's assembly answers InvalidLength exactly on wrong lengths, and the build's end
passes its answer on to STATUS. -/
theorem invalidLengthExactlyOnWrongLengths : Obligations.InvalidLengthExactlyOnWrongLengths := fun s =>
  ⟨_, exec_buildUid s, (status_endBuild_eq_err_iff ..).trans (assembleUid_eq_invalidLength_iff s)⟩

/-! ### The first match -/

/-- There is one first match at most (R108). -/
theorem FirstAt.unique {rom : List (List Byte)} {url : List Byte} {c i j : Nat} (hi : FirstAt rom url c i)
    (hj : FirstAt rom url c j) : i = j :=
  Option.some.inj (((firstMatch_eq_some ..).2 hi).symm.trans ((firstMatch_eq_some ..).2 hj))

/-- ENC.PFX where a prefix matches (R102). -/
theorem encPfx_of_firstAt {url : List Byte} {p : Nat} (h : FirstAt pfxRom url 0 p) :
    encPfx url = .ok ((romEntry pfxRom p).length, [tokenByte p]) := by
  simp only [encPfx, (firstMatch_eq_some ..).2 h]

/-- ENC.PFX where none does (R102). -/
theorem encPfx_of_noneAt {url : List Byte} (h : NoneAt pfxRom url 0) : encPfx url = .error .invalidPrefix := by
  simp only [encPfx, (firstMatch_eq_none ..).2 h]

/-- Every prefix is 7 bytes at least, so none lies inside a shorter input (R181). -/
theorem noneAt_pfxRom_of_length_lt {url : List Byte} (h : url.length < 7) : NoneAt pfxRom url 0 := by
  intro i hi ⟨hinside, _⟩
  have hlen := (pfx_length i hi).1
  omega

/-! ### One turn of the body loop -/

/-- ENC.LIT raises at a rejected byte (R104). -/
theorem encLit_of_rejectedAt {url : List Byte} {c : Nat} (h : RejectedAt url c) :
    encLit url c = .error .invalidCharacter := by
  obtain ⟨ch, hch, hbad⟩ := h
  simp only [encLit, List.getD_eq_getElem?_getD, hch, Option.getD_some, if_pos hbad]

/-- ENC.LIT emits a literal (R104). -/
theorem encLit_of_literalAt {url : List Byte} {c : Nat} {ch : Byte} (h : LiteralAt url c ch) :
    encLit url c = .ok (ch, c + 1) := by
  obtain ⟨hch, hlo, hhi⟩ := h
  have hgood : ¬ (ch.toNat ≤ 0x22 ∨ 0x7f ≤ ch.toNat) := by omega
  simp only [encLit, List.getD_eq_getElem?_getD, hch, Option.getD_some, if_neg hgood]

/-- A pass raises at a rejected byte that begins no suffix, before the output's length is looked at (R107). -/
theorem encPass_of_rejectedAt {url : List Byte} {c : Nat} (out : List Byte) (hnone : NoneAt sfxRom url c)
    (hbad : RejectedAt url c) : encPass url c out = .error .invalidCharacter := by
  simp only [encPass, encSfx, (firstMatch_eq_none ..).2 hnone, encLit_of_rejectedAt hbad]

/-- A pass that emits comes to ENC.LEN with the emitted byte (R103, R104, R105). -/
theorem encPass_of_emits {url : List Byte} {c c' : Nat} {b : Byte} (out : List Byte) (h : Emits url c b c') :
    encPass url c out = encEmit out b c' := by
  cases h with
  | suffix j first => simp only [encPass, encSfx, (firstMatch_eq_some ..).2 first, tokenByte]
  | literal ch inside none lit =>
    simp only [encPass, encSfx, (firstMatch_eq_none ..).2 none, encLit_of_literalAt lit]

/-- With a pass left, the loop goes on behind an emission that has room (R105). -/
theorem encBody_of_emits {url : List Byte} {c c' : Nat} {b : Byte} {out : List Byte} (passes : Nat)
    (h : Emits url c b c') (hroom : out.length ≠ 18) :
    encBody url (passes + 1) c out = encBody url passes c' (out ++ [b]) := by
  obtain ⟨hlt, hle, -⟩ := h.cursor
  have hinside : c < url.length := by omega
  simp only [encBody, if_pos hinside, encPass_of_emits out h, encEmit_eq, if_neg hroom]

/-! ### The scan -/

/-- The scan comes to a body position inside the input where no suffix matches and the byte is rejected
(R182). -/
def ReachesRejectedByte (url : List Byte) : Prop :=
  ∃ c W, Reached url c W ∧ c < url.length ∧ NoneAt sfxRom url c ∧ RejectedAt url c

/-- The output holds at most 18 bytes wherever the scan is (R25). -/
theorem Reached.length_le {url : List Byte} {c : Nat} {W : List Byte} (h : Reached url c W) : W.length ≤ 18 := by
  cases h with
  | start p first => simp
  | pass c W b c' before emits room => simpa using Nat.succ_le_of_lt room

/-- Every position the scan comes to lies behind the prefix (R182): it starts there and only moves forward. -/
theorem Reached.prefix_length_le {url : List Byte} {c p : Nat} {W : List Byte} (h : Reached url c W)
    (hp : FirstAt pfxRom url 0 p) : (romEntry pfxRom p).length ≤ c := by
  induction h with
  | start q first => rw [hp.unique first]
  | pass c W b c' before emits room ih =>
    have hforward := emits.cursor.1
    omega

/-- Wherever the scan is, the rest of the loop gives the codec's result; w bytes stored leave 19 - w passes
(R106 c). -/
theorem Reached.encodeUrl_eq {url : List Byte} {c : Nat} {W : List Byte} (h : Reached url c W) :
    encodeUrl url = encBody url (19 - W.length) c W := by
  induction h with
  | start p first => simp only [encodeUrl, encPfx_of_firstAt first]; rfl
  | pass c W b c' before emits room ih =>
    have hpasses : 19 - W.length = (18 - W.length) + 1 := by omega
    have hleft : 19 - (W ++ [b]).length = 18 - W.length := by simp
    rw [ih, hpasses, encBody_of_emits _ emits (by omega), hleft]

/-- The loop raises two kinds only: TooLong, or InvalidCharacter at a rejected byte it has come to. -/
theorem encBody_error_cases {url : List Byte} {k : ErrKind} (passes : Nat) {c : Nat} {W : List Byte}
    (hreached : Reached url c W) (herr : encBody url passes c W = .error k) :
    k = .tooLong ∨ k = .invalidCharacter ∧ ReachesRejectedByte url := by
  induction passes generalizing c W with
  | zero => exact .inl (Except.error.inj herr).symm
  | succ passes ih =>
    by_cases hinside : c < url.length
    · obtain ⟨hnone, hbad, hpass⟩ | ⟨b, c', hemits, hpass⟩ := encPass_cases url c W hinside
      · simp only [encBody, if_pos hinside, hpass, Except.error.injEq] at herr
        exact .inr ⟨herr.symm, c, W, hreached, hinside, hnone, hbad⟩
      · by_cases hfull : W.length = 18
        · simp only [encBody, if_pos hinside, hpass, encEmit_eq, if_pos hfull, Except.error.injEq] at herr
          exact .inl herr.symm
        · rw [encBody_of_emits passes hemits hfull] at herr
          have hroom : W.length < 18 := lt_of_le_of_ne hreached.length_le hfull
          exact ih (.pass c W b c' hreached hemits hroom) herr
    · simp only [encBody, if_neg hinside, reduceCtorEq] at herr

/-- The codec raises InvalidPrefix without a prefix, and behind a prefix what the loop raises. -/
theorem encodeUrl_error_cases {url : List Byte} {k : ErrKind} (herr : encodeUrl url = .error k) :
    k = .invalidPrefix ∧ NoneAt pfxRom url 0 ∨ k = .tooLong ∨ k = .invalidCharacter ∧ ReachesRejectedByte url := by
  obtain ⟨hnone, hpfx⟩ | ⟨p, hfirst, -⟩ := encPfx_cases url
  · simp only [encodeUrl, hpfx, Except.error.injEq] at herr
    exact .inl ⟨herr.symm, hnone⟩
  · have hstart := Reached.start p hfirst
    exact .inr (encBody_error_cases _ hstart (hstart.encodeUrl_eq ▸ herr))

/-- R181 for the codec. -/
theorem encodeUrl_eq_invalidPrefix_iff (url : List Byte) :
    encodeUrl url = .error .invalidPrefix ↔ NoneAt pfxRom url 0 := by
  constructor
  · intro herr
    obtain ⟨-, hnone⟩ | hk | ⟨hk, -⟩ := encodeUrl_error_cases herr
    · exact hnone
    · cases hk
    · cases hk
  · intro hnone
    simp only [encodeUrl, encPfx_of_noneAt hnone]

/-- R182 for the codec. -/
theorem encodeUrl_eq_invalidCharacter_iff (url : List Byte) :
    encodeUrl url = .error .invalidCharacter ↔ ReachesRejectedByte url := by
  constructor
  · intro herr
    obtain ⟨hk, -⟩ | hk | ⟨-, hrejected⟩ := encodeUrl_error_cases herr
    · cases hk
    · cases hk
    · exact hrejected
  · rintro ⟨c, W, hreached, hinside, hnone, hbad⟩
    have hlen := hreached.length_le
    have hpasses : 19 - W.length = (18 - W.length) + 1 := by omega
    rw [hreached.encodeUrl_eq, hpasses]
    simp only [encBody, if_pos hinside, encPass_of_rejectedAt W hnone hbad]

/-- Settles O22: of the codec's steps only ENC.PFX answers InvalidPrefix, where no prefix matches; a prefix
does not fit into fewer than 7 bytes. -/
theorem invalidPrefixExactlyWithoutScheme : Obligations.InvalidPrefixExactlyWithoutScheme := by
  intro s
  have hiff : (endEncode (encodeUrl s.url) s).status = .err .invalidPrefix ↔ NoneAt pfxRom s.url 0 :=
    (status_endEncode_eq_err_iff ..).trans (encodeUrl_eq_invalidPrefix_iff s.url)
  exact ⟨_, exec_encode s, hiff, fun hshort =>
    hiff.2 (noneAt_pfxRom_of_length_lt ((length_url s).trans_lt hshort))⟩

/-- Settles O23: the loop raises InvalidCharacter only where it has come to a rejected byte, and wherever it
comes to one the codec's result is that raise; it comes only to positions behind the prefix. -/
theorem invalidCharacterExactlyAtARejectedBodyByte :
    Obligations.InvalidCharacterExactlyAtARejectedBodyByte := fun s =>
  ⟨_, exec_encode s, (status_endEncode_eq_err_iff ..).trans (encodeUrl_eq_invalidCharacter_iff s.url),
    fun _ _ _ hreached hfirst => hreached.prefix_length_le hfirst⟩

end Sys2Proof.Machine
end

section
/-! PROOFS of the family `other`, encodings (`30_encoding.md`): the rows of each format with their bytes, and
that decoder and encoder undo each other. -/

namespace Sys2Proof.Machine

/-! ### The rows of formats T0 and TB -/

/-- The rows of format T0: the five prefix rows and the reserved one (R64, R66, R68). -/
theorem t0Row_cases {i : Instr} (h : formatOf i = .t0) :
    (∃ p, (i, p) ∈ prefixRows) ∨ ∃ b, i = .t0Reserved b := by
  cases i <;> cases h
  case t0Reserved b => exact .inr ⟨b, rfl⟩
  all_goals exact .inl (by simp [prefixRows])

/-- The rows of format TB: the suffix rows, the literal rows and the reserved one (R65, R67, R68). -/
theorem tbRow_cases {i : Instr} (h : formatOf i = .tb) :
    (∃ j, (i, j) ∈ suffixRows) ∨ (∃ b, LiteralRow i b) ∨ ∃ b, i = .tbReserved b := by
  cases i <;> cases h
  case tbReserved b => exact .inr (.inr ⟨b, rfl⟩)
  case sfx0 | sfx1 | sfx2 | sfx3 | sfx4 | sfx5 | sfx6 | sfx7 | sfx8 | sfx9 | sfx10 | sfx11 | sfx12 | sfx13 =>
    exact .inl (by simp [suffixRows])
  all_goals exact .inr (.inl ⟨_, by constructor⟩)

/-- Prefix row p is the row of format T0 with the byte p (R66). -/
theorem prefixRow_byte : ∀ row ∈ prefixRows,
    row.2 < pfxRom.length ∧ formatOf row.1 = .t0 ∧ encode row.1 = [tokenByte row.2] ∧
      decodeT0 (tokenByte row.2) = row.1 := by decide

/-- Suffix row j is the row of format TB with the byte j (R67). -/
theorem suffixRow_byte : ∀ row ∈ suffixRows,
    row.2 < sfxRom.length ∧ formatOf row.1 = .tb ∧ encode row.1 = [tokenByte row.2] ∧
      decodeTb (tokenByte row.2) = row.1 := by decide

/-- A literal row is the row of format TB with its byte: the table's fixed bits before the free ones are the
block's first value plus the free ones (R65). -/
theorem LiteralRow.byte {i : Instr} {b : Byte} (h : LiteralRow i b) :
    isLiteral b = true ∧ formatOf i = .tb ∧ encode i = [b] ∧ decodeTb b = i := by
  cases h with
  | lit23 => decide
  | lit24to27 low => revert low; decide
  | lit28to2f low => revert low; decide
  | lit30to3f low => revert low; decide
  | lit40to5f low => revert low; decide
  | lit60to6f low => revert low; decide
  | lit70to77 low => revert low; decide
  | lit78to7b low => revert low; decide
  | lit7cto7d low => revert low; decide
  | lit7e => decide

/-! ### One-byte formats: the row a byte decodes to -/

/-- A command byte's row has that byte (R61, R62). -/
theorem decodeCmd_spec (b : Byte) :
    (decodeCmd b).wf = true ∧ formatOf (decodeCmd b) = .cmd ∧ encode (decodeCmd b) = [b] := by
  revert b; decide

/-- The row of a stream's first byte has that byte (R64, R66, R68). -/
theorem decodeT0_spec (b : Byte) :
    (decodeT0 b).wf = true ∧ formatOf (decodeT0 b) = .t0 ∧ encode (decodeT0 b) = [b] := by
  revert b; decide

/-- The row of a later byte of a stream has that byte (R65, R67, R68). -/
theorem decodeTb_spec (b : Byte) :
    (decodeTb b).wf = true ∧ formatOf (decodeTb b) = .tb ∧ encode (decodeTb b) = [b] := by
  revert b; decide

theorem frameTypeOf_eq_some_iff (b : Byte) (k : FrameType) : frameTypeOf b = some k ↔ k.byte = b := by
  revert b; cases k <;> decide

/-- A frame-type byte's row has that byte (R79). -/
theorem decodeFt_spec {b : Byte} {i : Instr} (h : decodeFt b = .ok i) :
    i.wf = true ∧ formatOf i = .ft ∧ encode i = [b] := by
  unfold decodeFt at h
  split at h
  case h_4 => cases h
  all_goals
    rename_i hk
    cases h
    exact ⟨rfl, rfl, congrArg (· :: []) ((frameTypeOf_eq_some_iff b _).1 hk)⟩

/-- The literal range in numbers (R65). -/
theorem isLiteral_iff (b : Byte) : isLiteral b = true ↔ 0x23 ≤ b.toNat ∧ b.toNat ≤ 0x7e := by
  simp [isLiteral]

/-- A reserved later byte lies between the suffix indices and the literals or above them (R68). -/
theorem wf_tbReserved_iff (b : Byte) :
    Instr.wf (.tbReserved b) = true ↔ (0x0e ≤ b.toNat ∧ b.toNat ≤ 0x22) ∨ 0x7f ≤ b.toNat := by
  simp only [Instr.wf, Bool.and_eq_true, decide_eq_true_eq, Bool.not_eq_true', ← Bool.not_eq_true, isLiteral_iff]
  omega

/-- The first byte of a stream is the row of its prefix, or reserved (R66, R68). -/
theorem decodeT0_cases (b : Byte) :
    ((decodeT0 b, b.toNat) ∈ prefixRows ∧ b.toNat < 5) ∨ (decodeT0 b = .t0Reserved b ∧ 5 ≤ b.toNat) := by
  obtain ⟨hwf, hfmt, hbyte⟩ := decodeT0_spec b
  obtain ⟨p, hp⟩ | ⟨c, hc⟩ := t0Row_cases hfmt
  · obtain ⟨hlt, -, henc, -⟩ := prefixRow_byte _ hp
    have hb : tokenByte p = b := List.head_eq_of_cons_eq (henc.symm.trans hbyte)
    have hlt5 : p < 5 := hlt
    have hpb : b.toNat = p := by rw [← hb, tokenByte, BitVec.toNat_ofNat]; omega
    exact .inl ⟨hpb ▸ hp, hpb ▸ hlt5⟩
  · rw [hc] at hwf hbyte
    obtain rfl : c = b := List.head_eq_of_cons_eq hbyte
    exact .inr ⟨hc, of_decide_eq_true hwf⟩

/-- A later byte of a stream is the row of its suffix, of itself as a literal, or reserved (R65, R67, R68). -/
theorem decodeTb_cases (b : Byte) :
    ((decodeTb b, b.toNat) ∈ suffixRows ∧ b.toNat ≤ 0x0d) ∨
      (LiteralRow (decodeTb b) b ∧ 0x23 ≤ b.toNat ∧ b.toNat ≤ 0x7e) ∨
      (decodeTb b = .tbReserved b ∧ ((0x0e ≤ b.toNat ∧ b.toNat ≤ 0x22) ∨ 0x7f ≤ b.toNat)) := by
  obtain ⟨hwf, hfmt, hbyte⟩ := decodeTb_spec b
  obtain ⟨j, hj⟩ | ⟨c, hc⟩ | ⟨c, hc⟩ := tbRow_cases hfmt
  · obtain ⟨hlt, -, henc, -⟩ := suffixRow_byte _ hj
    have hb : tokenByte j = b := List.head_eq_of_cons_eq (henc.symm.trans hbyte)
    have hlt14 : j < 14 := hlt
    have hjb : b.toNat = j := by rw [← hb, tokenByte, BitVec.toNat_ofNat]; omega
    exact .inl ⟨hjb ▸ hj, by omega⟩
  · obtain ⟨hlit, -, henc, -⟩ := hc.byte
    obtain rfl : c = b := List.head_eq_of_cons_eq (henc.symm.trans hbyte)
    exact .inr (.inl ⟨hc, (isLiteral_iff c).1 hlit⟩)
  · rw [hc] at hwf hbyte
    obtain rfl : c = b := List.head_eq_of_cons_eq hbyte
    exact .inr (.inr ⟨hc, (wf_tbReserved_iff c).1 hwf⟩)

/-- Settles O50: each byte falls to one of the three kinds of row, each kind has its own range of bytes, and the
ranges are disjoint. -/
theorem streamByteIsToldApartByValue : Obligations.StreamByteIsToldApartByValue := by
  intro b
  have hsuffix : (decodeTb b, b.toNat) ∈ suffixRows → b.toNat ≤ 0x0d := fun h =>
    Nat.le_of_lt_succ (suffixRow_byte _ h).1
  have hliteral : LiteralRow (decodeTb b) b → 0x23 ≤ b.toNat ∧ b.toNat ≤ 0x7e := fun h =>
    (isLiteral_iff b).1 h.byte.1
  have hreserved : decodeTb b = .tbReserved b → (0x0e ≤ b.toNat ∧ b.toNat ≤ 0x22) ∨ 0x7f ≤ b.toNat :=
    fun h => (wf_tbReserved_iff b).1 (h ▸ (decodeTb_spec b).1)
  obtain ⟨h, hb⟩ | ⟨h, hb⟩ | ⟨h, hb⟩ := decodeTb_cases b
  · exact ⟨iff_of_true h hb, ⟨hliteral, fun _ => by omega⟩, ⟨hreserved, fun _ => by omega⟩⟩
  · exact ⟨⟨hsuffix, fun _ => by omega⟩, iff_of_true h hb, ⟨hreserved, fun _ => by omega⟩⟩
  · exact ⟨⟨hsuffix, fun _ => by omega⟩, ⟨hliteral, fun _ => by omega⟩, iff_of_true h hb⟩

/-! ### The AD structures -/

/-- The tail of a Service Data structure that decodes (R70 to R73). -/
theorem decodeServiceData_eq_ok {len lo hi ft : Byte} {i : Instr} (h : decodeServiceData len lo hi ft = .ok i) :
    ∃ k, i = .adServiceData len k ∧ serviceDataLenOk len k = true ∧ lo = 0xaa#8 ∧ hi = 0xfe#8 ∧ k.byte = ft := by
  unfold decodeServiceData at h
  split at h
  case isFalse => cases h
  case isTrue huuid =>
    split at h
    case h_2 => cases h
    case h_1 k hk =>
      split at h
      case isFalse => cases h
      case isTrue hlen =>
        cases h
        exact ⟨k, rfl, hlen, huuid.1, huuid.2, (frameTypeOf_eq_some_iff ft k).1 hk⟩

/-- An AD structure that decodes is one of the three rows, with that row's bytes (R69, R70). -/
theorem decodeAd_spec {bs rest : List Byte} {i : Instr} (h : decodeAd bs = .ok (i, rest)) :
    i.wf = true ∧ formatOf i = .ad ∧ encode i ++ rest = bs := by
  unfold decodeAd at h
  split at h
  case h_1 | h_2 => cases h
  case h_3 len type value =>
    split at h
    case h_1 htype =>
      obtain rfl : type = 0x01#8 := BitVec.eq_of_toNat_eq htype
      split at h
      case isFalse => cases h
      case isTrue hflags =>
        obtain ⟨rfl, rfl⟩ := hflags
        cases h
        exact ⟨rfl, rfl, rfl⟩
    case h_2 htype =>
      obtain rfl : type = 0x03#8 := BitVec.eq_of_toNat_eq htype
      split at h
      case isFalse => cases h
      case isTrue huuid =>
        obtain ⟨rfl, rfl, rfl⟩ := huuid
        cases h
        exact ⟨rfl, rfl, rfl⟩
    case h_3 htype =>
      obtain rfl : type = 0x16#8 := BitVec.eq_of_toNat_eq htype
      split at h
      case h_2 => cases h
      case h_1 hdata =>
        cases h
        obtain ⟨k, rfl, hlen, rfl, rfl, rfl⟩ := decodeServiceData_eq_ok hdata
        exact ⟨hlen, rfl, rfl⟩
    all_goals cases h

/-- Settles O48: format by format, the row a byte or an AD structure decodes to has the bytes read. -/
theorem decodedBytesAreTheEncoding : Obligations.DecodedBytesAreTheEncoding := by
  intro fmt bs rest i h
  match fmt, bs with
  | .ad, bs => exact decodeAd_spec h
  | .cmd, [] | .t0, [] | .tb, [] | .ft, [] => cases h
  | .cmd, b :: bs =>
    cases h
    obtain ⟨hwf, hfmt, hbyte⟩ := decodeCmd_spec b
    exact ⟨hwf, hfmt, congrArg (· ++ rest) hbyte⟩
  | .t0, b :: bs =>
    cases h
    obtain ⟨hwf, hfmt, hbyte⟩ := decodeT0_spec b
    exact ⟨hwf, hfmt, congrArg (· ++ rest) hbyte⟩
  | .tb, b :: bs =>
    cases h
    obtain ⟨hwf, hfmt, hbyte⟩ := decodeTb_spec b
    exact ⟨hwf, hfmt, congrArg (· ++ rest) hbyte⟩
  | .ft, b :: bs =>
    simp only [decode] at h
    split at h
    case h_2 => cases h
    case h_1 hrow =>
      cases h
      obtain ⟨hwf, hfmt, hbyte⟩ := decodeFt_spec hrow
      exact ⟨hwf, hfmt, congrArg (· ++ rest) hbyte⟩

/-! ### Decoding an encoding -/

/-- A code that is none of the four commands' is reserved (R62). -/
theorem decodeCmd_of_not_isCommandCode (c : Byte) (h : isCommandCode c = false) : decodeCmd c = .cmdReserved c := by
  revert c; decide

/-- A command row is what its byte decodes to (R61, R62). -/
theorem decodeCmd_encode {i : Instr} (hwf : i.wf = true) (hfmt : formatOf i = .cmd) :
    ∃ b, encode i = [b] ∧ decodeCmd b = i := by
  cases i <;> cases hfmt
  case cmdReserved c => exact ⟨c, rfl, decodeCmd_of_not_isCommandCode c (by simpa [Instr.wf] using hwf)⟩
  all_goals exact ⟨_, rfl, rfl⟩

/-- A row of format T0 is what its byte decodes to (R66, R68). -/
theorem decodeT0_encode {i : Instr} (hwf : i.wf = true) (hfmt : formatOf i = .t0) :
    ∃ b, encode i = [b] ∧ decodeT0 b = i := by
  obtain ⟨p, hp⟩ | ⟨b, rfl⟩ := t0Row_cases hfmt
  · obtain ⟨-, -, henc, hdec⟩ := prefixRow_byte _ hp
    exact ⟨_, henc, hdec⟩
  · have hb : 5 ≤ b.toNat := of_decide_eq_true hwf
    obtain ⟨-, hlt⟩ | ⟨hdec, -⟩ := decodeT0_cases b
    · omega
    · exact ⟨b, rfl, hdec⟩

/-- A row of format TB is what its byte decodes to (R65, R67, R68). -/
theorem decodeTb_encode {i : Instr} (hwf : i.wf = true) (hfmt : formatOf i = .tb) :
    ∃ b, encode i = [b] ∧ decodeTb b = i := by
  obtain ⟨j, hj⟩ | ⟨b, hb⟩ | ⟨b, rfl⟩ := tbRow_cases hfmt
  · obtain ⟨-, -, henc, hdec⟩ := suffixRow_byte _ hj
    exact ⟨_, henc, hdec⟩
  · obtain ⟨-, -, henc, hdec⟩ := hb.byte
    exact ⟨b, henc, hdec⟩
  · obtain ⟨-, -, hreserved⟩ := streamByteIsToldApartByValue b
    exact ⟨b, rfl, hreserved.2 ((wf_tbReserved_iff b).1 hwf)⟩

/-- A frame-type row is what its byte decodes to (R79). -/
theorem decodeFt_encode {i : Instr} (hfmt : formatOf i = .ft) : ∃ b, encode i = [b] ∧ decodeFt b = .ok i := by
  cases i <;> cases hfmt
  all_goals exact ⟨_, rfl, rfl⟩

/-- An AD row is what its bytes decode to, whatever follows them (R69, R70). -/
theorem decodeAd_encode {i : Instr} (hwf : i.wf = true) (hfmt : formatOf i = .ad) (rest : List Byte) :
    decodeAd (encode i ++ rest) = .ok (i, rest) := by
  cases i <;> cases hfmt
  case adServiceData len k =>
    have hlen : serviceDataLenOk len k = true := hwf
    have hk : frameTypeOf k.byte = some k := (frameTypeOf_eq_some_iff _ k).2 rfl
    simp [encode, decodeAd, decodeServiceData, hk, hlen]
  all_goals rfl

/-- Settles O47: in each format a well-formed row is what its own bytes decode to. -/
theorem decodeOfEncodeIsIdentity : Obligations.DecodeOfEncodeIsIdentity := by
  intro i rest hwf
  cases hfmt : formatOf i with
  | cmd =>
    obtain ⟨b, hbyte, hdec⟩ := decodeCmd_encode hwf hfmt
    rw [hbyte, ← hdec]; rfl
  | t0 =>
    obtain ⟨b, hbyte, hdec⟩ := decodeT0_encode hwf hfmt
    rw [hbyte, ← hdec]; rfl
  | tb =>
    obtain ⟨b, hbyte, hdec⟩ := decodeTb_encode hwf hfmt
    rw [hbyte, ← hdec]; rfl
  | ft =>
    obtain ⟨b, hbyte, hdec⟩ := decodeFt_encode hfmt
    rw [hbyte]
    simp only [List.singleton_append, decode, hdec]
  | ad => exact decodeAd_encode hwf hfmt rest

/-- Settles O49: ten words of the tables, each decoded. -/
theorem wordsOfTheTablesDecode : Obligations.WordsOfTheTablesDecode := by
  unfold Obligations.WordsOfTheTablesDecode
  decide

end Sys2Proof.Machine
end

section
/-! PROOFS of the family `other`, the port (`42_host_commands.md`): what a step does with each event, and what
the host's writes, reads and scripts leave. -/

namespace Sys2Proof.Machine

/-! ### One step for each event -/

theorem step_of_pending_nil {s : State} (h : s.pending = []) : step s = .next s := by
  simp only [step, fetch, h]

theorem step_write {s : State} {w : HostWrite} {rest : List Event} (h : s.pending = .write w :: rest) :
    step s = hostWrite w (s.setPending rest) := by
  simp only [step, fetch, h]

theorem step_read {s : State} {r : HostRead} {rest : List Event} (h : s.pending = .read r :: rest) :
    step s = hostRead r (s.setPending rest) := by
  simp only [step, fetch, h]

theorem step_cmd {s : State} {v : Byte} {rest : List Event} (h : s.pending = .cmd v :: rest) :
    step s = exec (decodeCmd v) (s.setPending rest) := by
  simp only [step, fetch, h]

theorem step_reset {s : State} {rest : List Event} (h : s.pending = .reset :: rest) :
    step s = .next (resetBlock (s.setPending rest)) := by
  simp only [step, fetch, h]

theorem step_micro {s : State} {fmt : Format} {bytes : List Byte} {i : Instr} {rest : List Event}
    (h : s.pending = .micro fmt bytes :: rest) (hdec : decode fmt bytes = .ok (i, [])) :
    step s = exec i (s.setPending rest) := by
  simp only [step, fetch, h, fetchMicro, hdec]

/-- A micro-operation event that answers a next state held exactly one row (log entry 4). -/
theorem decode_of_step_micro {s t : State} {fmt : Format} {bytes : List Byte} {rest : List Event}
    (h : s.pending = .micro fmt bytes :: rest) (hstep : step s = .next t) : ∃ i, decode fmt bytes = .ok (i, []) := by
  simp only [step, fetch, h, fetchMicro] at hstep
  cases hdec : decode fmt bytes with
  | error r => simp [hdec] at hstep
  | ok row =>
    obtain ⟨i, left⟩ := row
    cases left with
    | nil => exact ⟨i, rfl⟩
    | cons b bs => simp [hdec] at hstep

/-- Settles O5: the port is empty, so the step serves nothing. -/
theorem nothingPresentedNothingChanges : Obligations.NothingPresentedNothingChanges := fun _ h =>
  step_of_pending_nil h

/-- Settles O4: both events run the row their bytes decode to. -/
theorem stepRunsTheDecodedInstruction : Obligations.StepRunsTheDecodedInstruction := by
  intro s rest
  refine ⟨fun v i hpend hdec => ?_, fun fmt bytes i hpend hdec => step_micro hpend hdec⟩
  obtain rfl : decodeCmd v = i := (Prod.mk.inj (Except.ok.inj hdec)).1
  exact step_cmd hpend

/-- The dispatch on the command byte, all eight bits compared (R61, R62). -/
theorem decodeCmd_eq (v : Byte) :
    decodeCmd v = if v = 0x80#8 then .encode else if v = 0x00#8 then .buildUid
      else if v = 0x10#8 then .buildUrl else if v = 0x20#8 then .buildTlm else .cmdReserved v := by
  revert v; decide

/-- Settles O6: the step runs the row of the byte, and the byte's row is the one named. -/
theorem commandByteSelectsTheCommand : Obligations.CommandByteSelectsTheCommand := by
  intro v s rest hpend
  rw [step_cmd hpend, decodeCmd_eq]

/-! ### Reset -/

/-- After a reset a register reads as at reset: no register is the host's side of the port (R200). -/
theorem readValue_resetBlock (r : HostRead) (s : State) : readValue r (resetBlock s) = readValue r State.reset := by
  cases r <;> simp only [readValue, resetBlock]

/-- Settles O2: the step is the reset of the block, which keeps the host's side of the port. -/
theorem resetEventRestoresEveryRegister : Obligations.ResetEventRestoresEveryRegister := fun s _ hpend =>
  ⟨_, step_reset hpend, fun r => readValue_resetBlock r _, by rw [resetBlock_work]; rfl,
    resetBlock_pending _, resetBlock_replies _⟩

/-- Settles O1: scalar registers hold zero, buffers are zero bytes throughout, URLBUF lists no byte. -/
theorem resetLeavesEveryRegisterZero : Obligations.ResetLeavesEveryRegisterZero := by
  have hbuf {n : Nat} (k : Fin n) : (Vector.replicate n 0x00#8)[k] = 0x00#8 := by simp
  exact ⟨fun _ => rfl, rfl, rfl, fun k => congrArg _ (hbuf k), rfl, fun k => congrArg _ (hbuf k), rfl, rfl, rfl,
    fun k => congrArg _ (hbuf k), rfl, fun k => congrArg _ (hbuf k), rfl, rfl⟩

/-- Settles O59: a read of STATUS gives the code of the kind it holds, and every code fits bits 2:0. -/
theorem statusByteIsTheCodeOfTheKind : Obligations.StatusByteIsTheCodeOfTheKind := by
  intro s
  have hread (r : ResultKind) (h : s.status = r) : readValue .status s = .byte (statusByte r) := by
    rw [readValue, h]
  have hhigh : (statusByte s.status).extractLsb' 3 5 = 0#5 := by
    cases s.status with
    | ok => decide
    | err k => cases k <;> decide
  exact ⟨hread _, hread _, hread _, hread _, hread _, hread _, _, rfl, hhigh⟩

/-! ### Host reads and writes -/

@[simp] theorem readValue_setPending (r : HostRead) (s : State) (es : List Event) :
    readValue r (s.setPending es) = readValue r s := by
  cases r <;> rfl

/-- A read the interface has hands over the register's value (R161). -/
theorem hostRead_of_hostMove {r : HostRead} (h : hostMove (.read r) = true) (s : State) :
    hostRead r s = .next (s.reply (readValue r s)) := by
  cases r
  case urlbuf k => exact if_pos (of_decide_eq_true h)
  all_goals rfl

/-- Settles O52: the value read does not depend on what is presented. -/
theorem hostReadChangesNoRegister : Obligations.HostReadChangesNoRegister := by
  intro s r rest hpend hmove
  rw [step_read hpend, hostRead_of_hostMove hmove, readValue_setPending]
  rfl

/-- Settles O53: each of the three moves fails the check of its access. -/
theorem movesTheHostLacksStop : Obligations.MovesTheHostLacksStop := by
  intro s rest k v
  refine ⟨fun hk hpend => ?_, fun hk hpend => ?_, fun hk hpend => ?_⟩
  · exact (step_write hpend).trans (if_neg (not_lt.2 hk))
  · exact (step_read hpend).trans (if_neg (not_lt.2 hk))
  · exact (step_write hpend).trans (if_neg (not_le.2 hk))

/-- A write of URLBUF is served inside its space (R41, R160). -/
theorem hostWrite_urlbuf_eq_next_iff {k : Nat} {v : Byte} {s t : State} :
    hostWrite (.urlbuf k v) s = .next t ↔ k < Config.urlMax ∧ { s with urlbuf := s.urlbuf.write k v } = t := by
  by_cases hk : k < Config.urlMax <;> simp [hostWrite, hk]

/-- A write of URLLEN is served up to URL_MAX (R12, R160). -/
theorem hostWrite_urllen_eq_next_iff {n : Nat} {s t : State} :
    hostWrite (.urllen n) s = .next t ↔ n ≤ Config.urlMax ∧ { s with urllen := n } = t := by
  by_cases hn : n ≤ Config.urlMax <;> simp [hostWrite, hn]

/-- Every write the interface has is served, and keeps the working variables and the port (R160). -/
theorem hostWrite_of_hostMove {w : HostWrite} (hmove : hostMove (.write w) = true) (s : State) :
    ∃ t, hostWrite w s = .next t ∧ t.work = s.work ∧ t.pending = s.pending ∧ t.replies = s.replies := by
  cases w
  case urlbuf k v => exact ⟨_, hostWrite_urlbuf_eq_next_iff.2 ⟨of_decide_eq_true hmove, rfl⟩, rfl, rfl, rfl⟩
  case urllen n => exact ⟨_, hostWrite_urllen_eq_next_iff.2 ⟨of_decide_eq_true hmove, rfl⟩, rfl, rfl, rfl⟩
  all_goals exact ⟨_, rfl, rfl, rfl, rfl⟩

/-- Storing byte k of a buffer, read back at any index. -/
theorem getElem_set_fin {n : Nat} (buf : Vector Byte n) (k j : Fin n) (v : Byte) :
    (buf.set k v)[j] = if j = k then v else buf[j] := by
  simp only [Fin.getElem_fin, Vector.getElem_set, Fin.ext_iff, eq_comm]

/-- After a write its target reads as the value given, and every other register as before (R160). -/
theorem readValue_hostWrite {w : HostWrite} {s t : State} (hwrite : hostWrite w s = .next t) (hwf : s.urlbuf.wf)
    (r : HostRead) : readValue r t = if r = writeTarget w then writeValue w else readValue r s := by
  cases w
  case urlbuf k v =>
    obtain ⟨-, rfl⟩ := hostWrite_urlbuf_eq_next_iff.1 hwrite
    cases r <;> simp [readValue, writeTarget, writeValue, Memory.read_write _ hwf, apply_ite Reply.byte]
  case urllen n =>
    obtain ⟨-, rfl⟩ := hostWrite_urllen_eq_next_iff.1 hwrite
    cases r <;> simp [readValue, writeTarget, writeValue]
  all_goals
    cases hwrite
    cases r <;>
      simp only [readValue, writeTarget, writeValue, reduceCtorEq, if_false, if_true, getElem_set_fin,
        HostRead.nidbuf.injEq, HostRead.bidbuf.injEq, HostRead.cu.injEq, apply_ite Reply.byte]

/-- Settles O51: the step is the write in the state without the event. -/
theorem hostWriteStoresExactlyTheValue : Obligations.HostWriteStoresExactlyTheValue := by
  intro s w rest hwf hpend hmove
  obtain ⟨t, ht, hwork, hpending, hreplies⟩ := hostWrite_of_hostMove hmove (s.setPending rest)
  refine ⟨t, (step_write hpend).trans ht, fun r => ?_, hwork, hpending, hreplies⟩
  rw [readValue_hostWrite ht hwf, readValue_setPending]

end Sys2Proof.Machine
end

section
/-! PROOFS of the family `other`, the script notation (`30_encoding.md` R78, `42_host_commands.md` R165): what a
host leaves that serves its lines one by one. -/

namespace Sys2Proof.Machine

/-- Serving an event that answers a next state, then the rest. -/
theorem serve_cons {e : Event} {s t : State} (es : List Event) (h : step (s.setPending [e]) = .next t) :
    serve (e :: es) s = serve es t := by
  simp only [serve, h]

theorem serve_write {w : HostWrite} {s t : State} (es : List Event)
    (h : hostWrite w (s.setPending []) = .next t) : serve (wr w :: es) s = serve es t :=
  serve_cons es ((step_write rfl).trans h)

theorem serve_read {r : HostRead} (hmove : hostMove (.read r) = true) (s : State) (es : List Event) :
    serve (rd r :: es) s = serve es ((s.setPending []).reply (readValue r s)) := by
  refine serve_cons es ((step_read rfl).trans ?_)
  rw [hostRead_of_hostMove hmove, readValue_setPending, readValue_setPending]
  rfl

/-! ### LOAD_URL -/

/-- URLBUF after consecutive writes from byte k on. -/
def Memory.fill : Memory → Nat → List Byte → Memory
  | m, _, [] => m
  | m, k, b :: bs => Memory.fill (m.write k b) (k + 1) bs

/-- Inside the range filled a byte reads as written, outside it as before. -/
theorem Memory.read_fill (bs : List Byte) : ∀ (m : Memory) (k j : Nat), m.wf →
    (m.fill k bs).read j = if k ≤ j ∧ j < k + bs.length then bs.getD (j - k) unlisted else m.read j := by
  induction bs with
  | nil =>
    intro m k j _
    rw [if_neg (by simp)]
    rfl
  | cons b bs ih =>
    intro m k j hwf
    rw [Memory.fill, ih _ _ _ (Memory.write_wf m hwf k b), Memory.read_write m hwf, List.length_cons]
    obtain hlt | rfl | hgt := lt_trichotomy j k
    · rw [if_neg (by omega), if_neg (by omega), if_neg (by omega)]
    · rw [if_neg (by omega), if_pos rfl, if_pos (by omega), Nat.sub_self, List.getD_cons_zero]
    · have hsucc : j - k = (j - (k + 1)) + 1 := by omega
      rw [hsucc, List.getD_cons_succ, if_neg (by omega : ¬ j = k)]
      exact if_congr (by omega) rfl rfl

/-- The writes of a text into URLBUF and then of URLLEN, served one by one. -/
theorem serve_fillUrl (bs : List Byte) (n : Nat) (hn : n ≤ Config.urlMax) : ∀ (k : Nat) (s : State),
    k + bs.length ≤ Config.urlMax → serve (fillUrl k bs ++ [wr (.urllen n)]) s =
      .next { s with urlbuf := s.urlbuf.fill k bs, urllen := n, pending := [] } := by
  induction bs with
  | nil =>
    intro k s _
    exact serve_write [] (hostWrite_urllen_eq_next_iff.2 ⟨hn, rfl⟩)
  | cons b bs ih =>
    intro k s hk
    rw [List.length_cons] at hk
    rw [fillUrl, List.cons_append, serve_write _ (hostWrite_urlbuf_eq_next_iff.2 ⟨by omega, rfl⟩),
      ih (k + 1) _ (by omega)]
    rfl

/-- Settles O54: the writes fill URLBUF from byte 0, and URLBUF read up to the text's length is the text. -/
theorem loadUrlPresentsTheText : Obligations.LoadUrlPresentsTheText := by
  intro s text hwf hlen
  refine ⟨_, serve_fillUrl text _ hlen 0 s (by omega), ?_, fun k hk => ?_, rfl⟩
  · refine List.ext_getElem (by simp [State.url]) fun j _ hj => ?_
    simp only [State.url, List.getElem_map, List.getElem_range, Memory.read_fill _ _ _ _ hwf]
    rw [if_pos (by omega), Nat.sub_zero, List.getD_eq_getElem _ _ hj]
  · exact (Memory.read_fill text _ 0 k hwf).trans (if_neg (by omega))

/-! ### BEACON_TLM -/

/-- Reads of the interface, served one by one, hand over the registers' values in order. -/
theorem serve_reads (rs : List HostRead) : ∀ s : State, (∀ r ∈ rs, hostMove (.read r) = true) → s.pending = [] →
    serve (rs.map rd) s = .next { s with replies := s.replies ++ rs.map (readValue · s) } := by
  induction rs with
  | nil =>
    intro s _ _
    simp [serve]
  | cons r rs ih =>
    intro s hmove hpend
    have hsame : s.setPending [] = s := by rw [← hpend]; rfl
    have hread (r' : HostRead) : readValue r' (s.reply (readValue r s)) = readValue r' s := by cases r' <;> rfl
    rw [List.map_cons, serve_read (hmove r List.mem_cons_self), hsame,
      ih (s.reply (readValue r s)) (fun r' hr' => hmove r' (List.mem_cons_of_mem _ hr')) hpend]
    simp only [hread, State.reply_replies, List.append_assoc, List.singleton_append, List.map_cons]
    rfl

/-- Reading all 31 bytes of FR (R78). -/
theorem serve_rdFr (s : State) (hpend : s.pending = []) :
    serve rdFr s = .next { s with replies := s.replies ++ s.fr.toList.map .byte } := by
  have hreads : rdFr = ((List.finRange 31).map HostRead.fr).map rd := by rw [rdFr, List.map_map]; rfl
  have hbytes : ((List.finRange 31).map HostRead.fr).map (readValue · s) = s.fr.toList.map .byte := by
    refine List.ext_getElem (by simp) fun j hj _ => ?_
    simp [readValue]
  rw [hreads, serve_reads _ s (fun r hr => ?_) hpend, hbytes]
  obtain ⟨k, -, rfl⟩ := List.mem_map.1 hr
  rfl

theorem serve_cmdBuildTlm (s : State) (es : List Event) : serve (cmdBuildTlm :: es) s =
    serve es { s with fr := tlmFrame s.advcnt s.elapsed, status := .ok, work := .idle, pending := [] } := by
  refine serve_cons es ?_
  rw [cmdBuildTlm, step_cmd (State.setPending_pending ..), show decodeCmd 0x20#8 = .buildTlm from rfl, exec_buildTlm,
    endBuild_ok]
  simp only [State.setPending]

/-- The first stage of BEACON_TLM (R165): the counters, the build and the read of its STATUS. -/
theorem serve_beaconTlm_build (adv sec : Counter) (s : State) :
    serve [wr (.advcnt adv), wr (.elapsed sec), cmdBuildTlm, rd .status] s =
      .next { s with
        advcnt := adv, elapsed := sec, fr := tlmFrame adv sec, status := .ok, work := .idle, pending := [],
        replies := s.replies ++ [.byte 0#8] } := by
  rw [serve_write (t := { s with advcnt := adv, pending := [] }) _ rfl,
    serve_write (t := { s with advcnt := adv, elapsed := sec, pending := [] }) _ rfl, serve_cmdBuildTlm, serve_read rfl]
  rfl

/-- Settles O55: the build succeeds, so the second stage reads the frame it wrote. -/
theorem beaconTlmReadsTheFrame : Obligations.BeaconTlmReadsTheFrame := by
  intro s adv sec
  rw [beaconTlm]
  simp only [serveStages, serve_beaconTlm_build, if_true, serve_rdFr]
  exact ⟨_, rfl, by simp, rfl, rfl⟩

end Sys2Proof.Machine
end

section
/-! PROOFS of the family `other`, the commands (`42_host_commands.md` R162, `60_exceptions.md`): the exits of a
command, what each leaves, and what the commands do right after reset. -/

namespace Sys2Proof.Machine

/-- The frame a build command assembles where its precondition holds (R131 to R133). -/
inductive Assembles (s : State) : Instr → Frame → Prop where
  | uid (nid : s.nidlen = 10#8) (bid : s.bidlen = 6#8) :
      Assembles s .buildUid (uidFrame s.txpower s.nidbuf s.bidbuf)
  | url (len : s.culen.toNat ≤ 18) : Assembles s .buildUrl (urlFrame s.txpower s.culen s.stream)
  | tlm : Assembles s .buildTlm (tlmFrame s.advcnt s.elapsed)

/-- The exits of a command: an error raised, a frame committed to FR, or ENCODE's output committed to CU and
CULEN (R106, R135, R187). -/
inductive CommandExit (s : State) : Instr → State → Prop where
  | raised {i : Instr} (k : ErrKind) : CommandExit s i (raise k s)
  | built {i : Instr} (f : Frame) (frame : Assembles s i f) : CommandExit s i (done (commitFr f s))
  | encoded (out : List Byte) : CommandExit s .encode (done (commitCu out s))

/-- BUILD_UID where its precondition holds (R131). -/
theorem exec_buildUid_of_lengths {s : State} (hnid : s.nidlen = 10#8) (hbid : s.bidlen = 6#8) :
    exec .buildUid s = .next (done (commitFr (uidFrame s.txpower s.nidbuf s.bidbuf) s)) := by
  obtain ⟨hbad, -⟩ | ⟨-, -, hok⟩ := assembleUid_cases s
  · exact absurd hbad (by simp [hnid, hbid])
  · rw [exec_buildUid, hok]
    rfl

/-- BUILD_URL where its re-check holds (R132). -/
theorem exec_buildUrl_of_culen {s : State} (h : s.culen.toNat ≤ 18) :
    exec .buildUrl s = .next (done (commitFr (urlFrame s.txpower s.culen s.stream) s)) := by
  obtain ⟨hlong, -⟩ | ⟨-, hok⟩ := assembleUrl_cases s
  · omega
  · rw [exec_buildUrl, hok]
    rfl

/-- BUILD_TLM, which has no precondition (R133). -/
theorem exec_buildTlm_eq (s : State) :
    exec .buildTlm s = .next (done (commitFr (tlmFrame s.advcnt s.elapsed) s)) := exec_buildTlm s

/-- A build that ends well writes FR and STATUS, whatever the frame (R135). -/
theorem done_commitFr_frame (f : Frame) (s : State) :
    done (commitFr f s) = { s with fr := (done (commitFr f s)).fr, status := .ok, work := .idle } := rfl

/-- Every command ends, by one of the exits (R162, R167). -/
theorem exec_command {i : Instr} (h : isCommand i = true) (s : State) : ∃ t, exec i s = .next t ∧ CommandExit s i t := by
  obtain rfl | rfl | rfl | rfl | ⟨code, rfl⟩ := (isCommand_iff i).1 h
  · obtain ⟨-, herr⟩ | ⟨hnid, hbid, -⟩ := assembleUid_cases s
    · exact ⟨_, by rw [exec_buildUid, herr]; rfl, .raised .invalidLength⟩
    · exact ⟨_, exec_buildUid_of_lengths hnid hbid, .built _ (.uid hnid hbid)⟩
  · obtain ⟨-, herr⟩ | ⟨hlen, -⟩ := assembleUrl_cases s
    · exact ⟨_, by rw [exec_buildUrl, herr]; rfl, .raised .tooLong⟩
    · exact ⟨_, exec_buildUrl_of_culen hlen, .built _ (.url hlen)⟩
  · exact ⟨_, exec_buildTlm_eq s, .built _ .tlm⟩
  · rw [exec_encode]
    cases encodeUrl s.url with
    | error k => exact ⟨_, rfl, .raised k⟩
    | ok out => exact ⟨_, rfl, .encoded out⟩
  · exact ⟨_, exec_cmdReserved code s, .raised .badCommand⟩

/-- Every byte written to CMD is a command (R61, R62). -/
theorem isCommand_decodeCmd (v : Byte) : isCommand (decodeCmd v) = true := by
  obtain ⟨-, hfmt, -⟩ := decodeCmd_spec v
  rw [isCommand, hfmt]
  rfl

/-- A command's exit leaves the block idle (R162). -/
theorem CommandExit.work_eq {s t : State} {i : Instr} (h : CommandExit s i t) : t.work = .idle := by
  cases h <;> rfl

/-- An exit with an error is a raise (R187). -/
theorem CommandExit.eq_raise {s t : State} {i : Instr} {k : ErrKind} (h : CommandExit s i t)
    (hk : t.status = .err k) : t = raise k s := by
  cases h with
  | raised k' => rw [← ResultKind.err.inj hk]
  | built f | encoded out => cases hk

/-- A command's exit keeps the operand registers and the host's side of the port (R10). -/
theorem CommandExit.sameOperands {s t : State} {i : Instr} (h : CommandExit s i t) : SameOperands s t := by
  cases h <;> constructor <;> intros <;> rfl

/-- Settles O9: a command that ends in an error ends by raising it. -/
theorem failedCommandChangesStatusOnly : Obligations.FailedCommandChangesStatusOnly := by
  intro i s hcmd
  obtain ⟨t, ht, hexit⟩ := exec_command hcmd s
  exact ⟨t, ht, hexit.work_eq, fun k hk => hexit.eq_raise hk⟩

/-- Settles O10: no exit writes an operand register; only ENCODE's commit writes CU and CULEN, only a
builder's writes FR. -/
theorem commandsKeepOperandRegisters : Obligations.CommandsKeepOperandRegisters := by
  intro i s hcmd
  obtain ⟨t, ht, hexit⟩ := exec_command hcmd s
  refine ⟨t, ht, hexit.sameOperands, fun hne => ?_, fun huid hurl htlm => ?_⟩
  · cases hexit with
    | raised k | built f => exact ⟨rfl, rfl⟩
    | encoded out => exact absurd rfl hne
  · cases hexit with
    | raised k | encoded out => rfl
    | built f frame =>
      cases frame with
      | uid => exact absurd rfl huid
      | url => exact absurd rfl hurl
      | tlm => exact absurd rfl htlm

/-- Settles O7: CMD.RESERVED is the raise of BadCommand, for every code. -/
theorem reservedCommandOnlySetsStatus : Obligations.ReservedCommandOnlySetsStatus := fun c s =>
  ⟨exec_cmdReserved c s, rfl⟩

end Sys2Proof.Machine
end

section
/-! PROOFS of the family `other`, the Frame Builder (`41_frame_builder.md`): the bytes of the three frames and
when BUILD_URL refuses its stream. -/

namespace Sys2Proof.Machine

/-- SD_LEN_URL as a number (R74 g). -/
theorem sdLenUrl_eq (culen : Byte) : 4#8 + culen = BitVec.ofNat 8 (4 + culen.toNat) := by
  rw [BitVec.ofNat_add, BitVec.ofNat_toNat, BitVec.setWidth_eq]

/-- Settles O11: with both lengths right the build commits format UID. -/
theorem buildUidWritesTheUidFrame : Obligations.BuildUidWritesTheUidFrame := by
  intro s hnid hbid
  refine ⟨_, exec_buildUid_of_lengths hnid hbid, ?_, done_commitFr_frame ..⟩
  rw [done_fr, commitFr_fr, toList_uidFrame]
  simp

/-- Settles O13: with a length of at most 18 the build commits format URL. -/
theorem buildUrlWritesTheUrlFrame : Obligations.BuildUrlWritesTheUrlFrame := by
  intro s hlen
  have hstream := length_stream s hlen
  refine ⟨_, exec_buildUrl_of_culen hlen, ?_, done_commitFr_frame ..⟩
  rw [done_fr, commitFr_fr, toList_urlFrame _ _ _ (by omega), hstream, sdLenUrl_eq, State.stream]
  simp

/-- Settles O14: the re-check of CULEN is BUILD_URL's only precondition, and its kind is TooLong. -/
theorem buildUrlTooLongExactlyAboveEighteen : Obligations.BuildUrlTooLongExactlyAboveEighteen := by
  intro s
  refine ⟨_, exec_buildUrl s, (status_endBuild_eq_err_iff ..).trans ?_⟩
  obtain ⟨hlong, herr⟩ | ⟨hfits, hok⟩ := assembleUrl_cases s
  · exact iff_of_true herr hlong
  · exact iff_of_false (by simp [hok]) (by omega)

/-- Settles O15: the build commits format TLM in every state. -/
theorem buildTlmWritesTheTlmFrame : Obligations.BuildTlmWritesTheTlmFrame := by
  intro s
  refine ⟨_, exec_buildTlm_eq s, ?_, done_commitFr_frame ..⟩
  rw [done_fr, commitFr_fr, toList_tlmFrame]
  simp only [be32, List.cons_append, List.nil_append]

/-- Joining the bytes of BE32 gives the counter back (R44). -/
theorem join_of_be32 {b₀ b₁ b₂ b₃ : Byte} {v : Counter} (h : be32 v = [b₀, b₁, b₂, b₃]) : b₀ ++ b₁ ++ b₂ ++ b₃ = v := by
  simp only [be32, List.cons.injEq, and_true] at h
  obtain ⟨rfl, rfl, rfl, rfl⟩ := h
  rw [BitVec.extractLsb'_append_extractLsb'_eq_extractLsb' (by rfl),
    BitVec.extractLsb'_append_extractLsb'_eq_extractLsb' (by rfl),
    BitVec.extractLsb'_append_extractLsb'_eq_extractLsb' (by rfl)]
  exact BitVec.extractLsb'_eq_self

/-- Four bytes of a frame in order. -/
theorem take_four_drop (f : Frame) (a : Nat) (h : a + 3 < 31) :
    (f.toList.drop a).take 4 = [f[a], f[a + 1], f[a + 2], f[a + 3]] := by
  have hlen : f.toList.length = 31 := Vector.length_toList
  rw [List.drop_eq_getElem_cons (by omega), List.drop_eq_getElem_cons (by omega), List.drop_eq_getElem_cons (by omega),
    List.drop_eq_getElem_cons (by omega)]
  simp

/-- Settles O16: format TLM has BE32 of ADVCNT at offset 17 and of ELAPSED at offset 21. -/
theorem tlmCountersReadBackFromTheFrame : Obligations.TlmCountersReadBackFromTheFrame := by
  intro s
  refine ⟨_, exec_buildTlm_eq s, join_of_be32 ?_, join_of_be32 ?_⟩
  · rw [done_fr, commitFr_fr, ← take_four_drop _ 17 (by decide), toList_tlmFrame]
    rfl
  · rw [done_fr, commitFr_fr, ← take_four_drop _ 21 (by decide), toList_tlmFrame]
    rfl

/-- Byte 7 of a frame is the service-data length its preamble was given (R130). -/
theorem getElem_seven_payload (l t : Byte) (bs : List Byte) (h : bs.length ≤ 19) :
    (putBytes (putPre l t zeroFrame) 12 bs)[7] = l :=
  (Option.some.inj (getElem_eq_of_toList _ _ (toList_payload l t bs h) 7 (by decide))).symm

/-- Byte 11 of a frame is the frame type its preamble was given (R130). -/
theorem getElem_eleven_payload (l t : Byte) (bs : List Byte) (h : bs.length ≤ 19) :
    (putBytes (putPre l t zeroFrame) 12 bs)[11] = t :=
  (Option.some.inj (getElem_eq_of_toList _ _ (toList_payload l t bs h) 11 (by decide))).symm

/-- The service-data length and the frame type of format UID (R71). -/
theorem uidFrame_head (tx : Byte) (nid : Vector Byte 10) (bid : Vector Byte 6) :
    (uidFrame tx nid bid)[7] = 20#8 ∧ (uidFrame tx nid bid)[11] = 0x00#8 :=
  ⟨getElem_seven_payload _ _ _ (by simp), getElem_eleven_payload _ _ _ (by simp)⟩

/-- The service-data length and the frame type of format URL (R72). -/
theorem urlFrame_head (tx culen : Byte) {stream : List Byte} (h : stream.length ≤ 18) :
    (urlFrame tx culen stream)[7] = 4#8 + culen ∧ (urlFrame tx culen stream)[11] = 0x10#8 :=
  ⟨getElem_seven_payload _ _ _ (by simp; omega), getElem_eleven_payload _ _ _ (by simp; omega)⟩

/-- The service-data length and the frame type of format TLM (R73). -/
theorem tlmFrame_head (adv sec : Counter) : (tlmFrame adv sec)[7] = 17#8 ∧ (tlmFrame adv sec)[11] = 0x20#8 :=
  ⟨getElem_seven_payload _ _ _ (by simp [tlmFixed, be16, be32]),
    getElem_eleven_payload _ _ _ (by simp [tlmFixed, be16, be32])⟩

/-- A build command that ends with OK has committed the frame it assembles (R135). -/
theorem CommandExit.assembles {s t : State} {i : Instr} (h : CommandExit s i t) (hi : i ≠ .encode)
    (hok : t.status = .ok) : Assembles s i t.fr := by
  cases h with
  | raised k => cases hok
  | built f frame => exact frame
  | encoded out => exact absurd rfl hi

/-- Byte 7 of an assembled UID frame (C1). -/
theorem Assembles.uid_seven {s : State} {f : Frame} (h : Assembles s .buildUid f) : f[7] = 20#8 := by
  cases h with
  | uid => exact (uidFrame_head ..).1

/-- Byte 7 of an assembled URL frame (R74 g). -/
theorem Assembles.url_seven {s : State} {f : Frame} (h : Assembles s .buildUrl f) :
    s.culen.toNat ≤ 18 ∧ f[7] = 4#8 + s.culen := by
  cases h with
  | url len => exact ⟨len, (urlFrame_head _ _ (by rw [length_stream s len]; exact len)).1⟩

/-- Settles O19: a build that ends with OK has committed the frame it assembles, whose byte 7 is the length
given to its preamble. -/
theorem serviceDataLengthCountsThePayload : Obligations.ServiceDataLengthCountsThePayload := by
  intro s
  refine ⟨?_, ?_, ⟨_, exec_buildTlm_eq s, ?_⟩⟩
  · obtain ⟨t, ht, hexit⟩ := exec_command (i := .buildUid) rfl s
    exact ⟨t, ht, fun hok => congrArg BitVec.toNat (hexit.assembles (by decide) hok).uid_seven⟩
  · obtain ⟨t, ht, hexit⟩ := exec_command (i := .buildUrl) rfl s
    refine ⟨t, ht, fun hok => ?_⟩
    obtain ⟨hlen, hseven⟩ := (hexit.assembles (by decide) hok).url_seven
    rw [hseven, sdLenUrl_eq, BitVec.toNat_ofNat]
    omega
  · exact congrArg BitVec.toNat (tlmFrame_head ..).1

/-- Settles O3: at reset URLBUF holds no URL and NIDLEN is not 10, so the first two commands raise; the others
commit a URL frame without a stream and a TLM frame. -/
theorem commandsOnTheResetState : Obligations.CommandsOnTheResetState := by
  have hempty : State.reset.culen.toNat ≤ 18 := by decide
  refine ⟨⟨_, exec_encode _, ?_⟩, ⟨_, exec_buildUid _, ?_⟩, ⟨_, exec_buildUrl_of_culen hempty, rfl, ?_⟩,
    ⟨_, exec_buildTlm_eq _, rfl, ?_⟩⟩
  · exact (status_endEncode_eq_err_iff ..).2
      ((encodeUrl_eq_invalidPrefix_iff _).2 (noneAt_pfxRom_of_length_lt (by decide)))
  · exact (status_endBuild_eq_err_iff ..).2 ((assembleUid_eq_invalidLength_iff _).2 (.inl (by decide)))
  · rw [done_fr, commitFr_fr, (urlFrame_head _ _ (by decide)).1]
    rfl
  · rw [done_fr, commitFr_fr, (tlmFrame_head ..).2]

end Sys2Proof.Machine
end

section
/-! PROOFS of the family `other`, ENCODE (`40_url_token_codec.md`): the codec's result is the pseudocode's, and
what holds of every output the scan can come to. -/

namespace Sys2Proof.Machine

/-! ### The codec's result is the result of the pseudocode's one run -/

/-- A run of the body loop ends as the codec's loop does; w bytes stored leave 19 - w passes (R106 c). -/
theorem BodyRun.encBody_eq {url : List Byte} {c : Nat} {W : List Byte} {r : Except ErrKind (List Byte)}
    (h : BodyRun url c W r) (hW : W.length ≤ 18) : encBody url (19 - W.length) c W = r := by
  induction h with
  | finish W =>
    rw [show 19 - W.length = (18 - W.length) + 1 by omega]
    exact if_neg (lt_irrefl _)
  | badCharacter c W inside none bad =>
    rw [show 19 - W.length = (18 - W.length) + 1 by omega]
    simp only [encBody, if_pos inside, encPass_of_rejectedAt W none bad]
  | tooLong c W b c' emits full =>
    obtain ⟨hlt, hle, -⟩ := emits.cursor
    rw [full, encBody, if_pos (by omega), encPass_of_emits W emits, encEmit_eq, if_pos full]
  | store c W b c' r emits room rest ih =>
    rw [show 19 - W.length = (18 - W.length) + 1 by omega, encBody_of_emits _ emits (by omega)]
    simpa using ih (by simpa using Nat.succ_le_of_lt room)

/-- Any run of the pseudocode ends as the codec does (R100). -/
theorem EncodeRun.encodeUrl_eq {url : List Byte} {r : Except ErrKind (List Byte)} (h : EncodeRun url r) :
    encodeUrl url = r := by
  cases h with
  | badPrefix none => simp only [encodeUrl, encPfx_of_noneAt none]
  | body p r first rest => exact (Reached.start p first).encodeUrl_eq.trans (rest.encBody_eq (by simp))

/-- The body loop has a run from every cursor inside the input: each pass uses up room (R106 c, R167). -/
theorem exists_bodyRun {url : List Byte} (room : Nat) {c : Nat} {W : List Byte} (hc : c ≤ url.length)
    (hW : W.length + room = 18) : ∃ r, BodyRun url c W r := by
  obtain hlt | rfl := lt_or_eq_of_le hc
  · obtain ⟨hnone, hbad, -⟩ | ⟨b, c', hemits, -⟩ := encPass_cases url c W hlt
    · exact ⟨_, .badCharacter c W hlt hnone hbad⟩
    · match room with
      | 0 => exact ⟨_, .tooLong c W b c' hemits hW⟩
      | room + 1 =>
        obtain ⟨-, hle, -⟩ := hemits.cursor
        obtain ⟨r, hr⟩ := exists_bodyRun room (W := W ++ [b]) hle (by simp; omega)
        exact ⟨r, .store c W b c' r hemits (by omega) hr⟩
  · exact ⟨_, .finish W⟩

/-- The pseudocode has a run on every input (R167). -/
theorem exists_encodeRun (url : List Byte) : ∃ r, EncodeRun url r := by
  obtain ⟨hnone, -⟩ | ⟨p, hfirst, -⟩ := encPfx_cases url
  · exact ⟨_, .badPrefix hnone⟩
  · have ⟨_, ⟨hfits, _⟩, _⟩ := hfirst
    have hinside : (romEntry pfxRom p).length ≤ url.length := by simpa using hfits
    obtain ⟨r, hr⟩ := exists_bodyRun 17 hinside (W := [BitVec.ofNat 8 p]) rfl
    exact ⟨r, .body p r hfirst hr⟩

/-- The codec's result is that of the pseudocode's one run. -/
theorem encodeRun_iff (url : List Byte) (r : Except ErrKind (List Byte)) : EncodeRun url r ↔ encodeUrl url = r := by
  refine ⟨EncodeRun.encodeUrl_eq, ?_⟩
  rintro rfl
  obtain ⟨r, hr⟩ := exists_encodeRun url
  rwa [hr.encodeUrl_eq]

/-! ### The exits of the scan -/

/-- A run that ends with an output has come to the end of the input with it. -/
theorem BodyRun.reached_of_ok {url : List Byte} {c : Nat} {W out : List Byte} (h : BodyRun url c W (.ok out))
    (hreached : Reached url c W) : Reached url url.length out := by
  generalize hr : (Except.ok out : Except ErrKind (List Byte)) = r at h
  induction h with
  | finish W => cases hr; exact hreached
  | badCharacter | tooLong => cases hr
  | store c W b c' r emits room rest ih => exact ih (.pass c W b c' hreached emits room) hr

/-- A run that ends with TooLong has come to an emission with 18 bytes stored (R105). -/
theorem BodyRun.reached_of_tooLong {url : List Byte} {c : Nat} {W : List Byte}
    (h : BodyRun url c W (.error .tooLong)) (hreached : Reached url c W) :
    ∃ c W b c', Reached url c W ∧ W.length = 18 ∧ Emits url c b c' := by
  generalize hr : (Except.error .tooLong : Except ErrKind (List Byte)) = r at h
  induction h with
  | finish | badCharacter => cases hr
  | tooLong c W b c' emits full => exact ⟨c, W, b, c', hreached, full, emits⟩
  | store c W b c' r emits room rest ih => exact ih (.pass c W b c' hreached emits room) hr

/-- The codec answers the outputs with which the scan comes to the end of the input, and no others (R106). -/
theorem encodeUrl_eq_ok_iff (url out : List Byte) : encodeUrl url = .ok out ↔ Reached url url.length out := by
  constructor
  · intro hok
    cases (encodeRun_iff ..).2 hok with
    | body p r first rest => exact rest.reached_of_ok (.start p first)
  · intro hreached
    exact hreached.encodeUrl_eq.trans ((BodyRun.finish out).encBody_eq hreached.length_le)

/-- R183 a for the codec. -/
theorem encodeUrl_eq_tooLong_iff (url : List Byte) :
    encodeUrl url = .error .tooLong ↔ ∃ c W b c', Reached url c W ∧ W.length = 18 ∧ Emits url c b c' := by
  constructor
  · intro herr
    cases (encodeRun_iff ..).2 herr with
    | body p r first rest => exact rest.reached_of_tooLong (.start p first)
  · rintro ⟨c, W, b, c', hreached, hfull, hemits⟩
    exact hreached.encodeUrl_eq.trans ((BodyRun.tooLong c W b c' hemits hfull).encBody_eq hreached.length_le)

/-! ### ENCODE's exits -/

/-- ENCODE where the codec raises (R187). -/
theorem exec_encode_of_error {s : State} {k : ErrKind} (h : encodeUrl s.url = .error k) :
    exec .encode s = .next (raise k s) := by
  rw [exec_encode, h]
  rfl

/-- ENCODE where the codec answers an output (R106). -/
theorem exec_encode_of_ok {s : State} {out : List Byte} (h : encodeUrl s.url = .ok out) :
    exec .encode s = .next (done (commitCu out s)) := by
  rw [exec_encode, h]
  rfl

/-- An ENCODE that ends well writes CU, CULEN and STATUS, whatever the output (R106). -/
theorem done_commitCu_frame (out : List Byte) (s : State) :
    done (commitCu out s) = { s with
      cu := (done (commitCu out s)).cu, culen := (done (commitCu out s)).culen, status := .ok, work := .idle } := rfl

/-- ENCODE ends with OK and an output the scan comes to the end of the input with, or it raises. -/
theorem exec_encode_cases (s : State) :
    (∃ out, Reached s.url s.url.length out ∧ exec .encode s = .next (done (commitCu out s))) ∨
      ∃ k, encodeUrl s.url = .error k ∧ exec .encode s = .next (raise k s) := by
  cases h : encodeUrl s.url with
  | ok out => exact .inl ⟨out, (encodeUrl_eq_ok_iff ..).1 h, exec_encode_of_ok h⟩
  | error k => exact .inr ⟨k, rfl, exec_encode_of_error h⟩

/-- What ENCODE leaves if it ends with OK: a property of every commit of such an output. -/
theorem exec_encode_ok {P : State → Prop} (s : State)
    (hP : ∀ out, Reached s.url s.url.length out → P (done (commitCu out s))) :
    ∃ t, exec .encode s = .next t ∧ (t.status = .ok → P t) := by
  obtain ⟨out, hreached, hexec⟩ | ⟨k, -, hexec⟩ := exec_encode_cases s
  · exact ⟨_, hexec, fun _ => hP out hreached⟩
  · exact ⟨_, hexec, fun hok => by cases hok⟩

/-- CULEN after a commit of at most 18 bytes. -/
theorem toNat_culen_commitCu {out : List Byte} (h : out.length ≤ 18) (s : State) :
    (done (commitCu out s)).culen.toNat = out.length := by
  rw [done_culen, commitCu_culen, BitVec.toNat_ofNat]
  omega

/-- CU after a commit of at most 18 bytes. -/
theorem toList_cu_commitCu {out : List Byte} (h : out.length ≤ 18) (s : State) :
    (done (commitCu out s)).cu.toList = out ++ List.replicate (18 - out.length) 0x00#8 := by
  rw [done_cu, commitCu_cu, toList_cuOf out h]

/-- The stream after a commit is the output (R106). -/
theorem stream_commitCu {out : List Byte} (h : out.length ≤ 18) (s : State) : (done (commitCu out s)).stream = out := by
  rw [State.stream, toList_cu_commitCu h, toNat_culen_commitCu h, List.take_left]

/-- Settles O20: the run exists and ends as the codec does, and ENCODE ends as the codec says. -/
theorem encodeFollowsThePseudocode : Obligations.EncodeFollowsThePseudocode := by
  intro s
  refine ⟨_, (encodeRun_iff ..).2 rfl, fun r' h => h.encodeUrl_eq.symm, fun k hk => exec_encode_of_error hk, ?_⟩
  intro out hout
  have hlen := ((encodeUrl_eq_ok_iff ..).1 hout).length_le
  exact ⟨_, exec_encode_of_ok hout, toNat_culen_commitCu hlen s, hlen, toList_cu_commitCu hlen s,
    done_commitCu_frame out s⟩

/-- Settles O21: the run's output is the codec's, which ENCODE commits. -/
theorem encodeCompletesWithTheOutput : Obligations.EncodeCompletesWithTheOutput := by
  intro s out hrun
  have hout := hrun.encodeUrl_eq
  have hlen := ((encodeUrl_eq_ok_iff ..).1 hout).length_le
  exact ⟨_, exec_encode_of_ok hout, rfl, stream_commitCu hlen s, toNat_culen_commitCu hlen s⟩

/-- Settles O24: the codec answers TooLong exactly there, and ENCODE's end puts its answer into STATUS. -/
theorem tooLongExactlyAtTheNineteenthByte : Obligations.TooLongExactlyAtTheNineteenthByte := fun s =>
  ⟨_, exec_encode s, (status_endEncode_eq_err_iff ..).trans (encodeUrl_eq_tooLong_iff s.url)⟩

end Sys2Proof.Machine
end

section
/-! PROOFS of the family `other`, the outputs of ENCODE (`40_url_token_codec.md` section 6): they are token
streams, their length bounds the URL's, and their expansion is the URL. -/

namespace Sys2Proof.Machine

/-! ### Token streams -/

/-- A stream with room stays one when a suffix index or a literal is stored (R64, R65). -/
theorem streamOk_append {W : List Byte} {b : Byte} (hW : streamOk W = true) (hroom : W.length < 18)
    (hb : b.toNat ≤ 13 ∨ isLiteral b = true) : streamOk (W ++ [b]) = true := by
  cases W with
  | nil => cases hW
  | cons p bs =>
    rw [List.length_cons] at hroom
    simp only [streamOk, List.cons_append, List.length_append, List.all_append, Bool.and_eq_true, decide_eq_true_eq,
      List.length_singleton, List.all_cons, List.all_nil, Bool.or_eq_true, and_true] at hW ⊢
    obtain ⟨⟨hp, -⟩, hbs⟩ := hW
    exact ⟨⟨hp, by omega⟩, hbs, hb⟩

/-- The token of a prefix alone is a stream (R66). -/
theorem streamOk_tokenByte {p : Nat} (h : p < pfxRom.length) : streamOk [tokenByte p] = true := by
  revert p; decide

/-- The output is a token stream wherever the scan is (R64, R65). -/
theorem Reached.streamOk {url : List Byte} {c : Nat} {W : List Byte} (h : Reached url c W) : streamOk W = true := by
  induction h with
  | start p first => exact streamOk_tokenByte first.1
  | pass c W b c' before emits room ih => exact streamOk_append ih room emits.byte

/-- The cursor lies at most 6 bytes a stored byte behind the longest prefix (R40). -/
theorem Reached.cursor_le {url : List Byte} {c : Nat} {W : List Byte} (h : Reached url c W) : c ≤ 6 + 6 * W.length := by
  induction h with
  | start p first =>
    have hlen := (pfx_length p first.1).2
    simpa using hlen
  | pass c W b c' before emits room ih =>
    obtain ⟨-, -, hstep⟩ := emits.cursor
    rw [List.length_append, List.length_singleton]
    omega

/-- The bytes of CU after a commit: the output's, then zeros. -/
theorem getElem_cu_commitCu {out : List Byte} (h : out.length ≤ 18) (s : State) (k : Fin 18) :
    (done (commitCu out s)).cu[k] = out.getD k.val 0x00#8 := by
  have hk := getElem_eq_of_toList _ _ (toList_cu_commitCu h s) k.val k.isLt
  refine (Option.some.inj (hk.symm.trans ?_))
  by_cases hlt : k.val < out.length
  · rw [List.getElem?_append_left hlt, List.getD_eq_getElem _ _ hlt, List.getElem?_eq_getElem hlt]
  · rw [List.getElem?_append_right (not_lt.1 hlt), List.getD_eq_default _ _ (not_lt.1 hlt), List.getElem?_replicate,
      if_pos (by omega)]

/-- Settles O26: the output committed is a token stream. -/
theorem encodeOutputIsATokenStream : Obligations.EncodeOutputIsATokenStream := by
  intro s
  refine exec_encode_ok s fun out hreached => ?_
  have hlen := hreached.length_le
  have hstream := hreached.streamOk
  cases out with
  | nil => cases hstream
  | cons p bs =>
    simp only [streamOk, Bool.and_eq_true, decide_eq_true_eq, List.all_eq_true, Bool.or_eq_true] at hstream
    obtain ⟨⟨hp, -⟩, hbs⟩ := hstream
    rw [toNat_culen_commitCu hlen]
    refine ⟨by simp, hlen, ?_, fun k => ⟨fun hpos hk => ?_, fun hk => ?_⟩⟩
    · exact (congrArg BitVec.toNat (getElem_cu_commitCu hlen s 0)).trans_le hp
    · rw [getElem_cu_commitCu hlen]
      obtain ⟨j, hj⟩ := Nat.exists_eq_add_of_lt hpos
      rw [List.length_cons] at hk
      have hj' : k.val = j + 1 := by omega
      rw [hj', List.getD_cons_succ, List.getD_eq_getElem _ _ (by omega)]
      exact hbs _ (List.getElem_mem _)
    · rw [getElem_cu_commitCu hlen, List.getD_eq_default _ _ hk]

/-- Settles O28: the scan cannot come to the end of such an input with 18 bytes. -/
theorem noUrlAbove114BytesIsEncoded : Obligations.NoUrlAbove114BytesIsEncoded := by
  intro s hlong
  obtain ⟨t, ht, hok⟩ := exec_encode_ok (P := fun _ => s.urllen ≤ 114) s fun out hreached => by
    have hcursor := hreached.cursor_le
    have hlen := hreached.length_le
    rw [length_url] at hcursor
    omega
  exact ⟨t, ht, fun hstatus => absurd (hok hstatus) (by omega)⟩

/-- Settles O27: a prefix matches, so InvalidPrefix is not raised; the scan stays behind the first
match, which is at least as long as the prefix given, so it comes to no rejected byte. -/
theorem printableUrlIsEncodedOrTooLong : Obligations.PrintableUrlIsEncodedOrTooLong := by
  intro s p hp hmatch hprintable
  obtain ⟨out, -, hexec⟩ | ⟨k, herr, hexec⟩ := exec_encode_cases s
  · exact ⟨_, hexec, .inl rfl⟩
  · refine ⟨_, hexec, .inr ?_⟩
    rw [raise_status]
    obtain ⟨-, hnone⟩ | rfl | ⟨-, c, W, hreached, hinside, -, ch, hch, hbad⟩ := encodeUrl_error_cases herr
    · exact absurd hmatch (hnone p hp)
    · rfl
    · obtain ⟨hnone, -⟩ | ⟨q, hfirst, -⟩ := encPfx_cases s.url
      · exact absurd hmatch (hnone p hp)
      · have hbehind := hreached.prefix_length_le hfirst
        obtain ⟨hmq, -, hlonger⟩ :=
          firstMatchIsTheLongestMatch pfxRom s.url 0 q p (.inl rfl) ((firstMatch_eq_some ..).2 hfirst) hp hmatch
        have hle : (romEntry pfxRom p).length ≤ (romEntry pfxRom q).length := by
          by_cases hqp : q = p
          · rw [hqp]
          · obtain ⟨more, -, happ⟩ := hlonger hqp
            rw [happ, List.length_append]
            omega
        have hlit := (isLiteral_iff ch).1 (hprintable c ch (hle.trans hbehind) hch)
        omega

/-! ### Expansion -/

/-- Expansion goes byte by byte (R76). -/
theorem expandLater_append {bs : List Byte} {b : Byte} {u x : List Byte} (hb : expandByte b = some x) :
    expandLater bs = some u → expandLater (bs ++ [b]) = some (u ++ x) := by
  induction bs generalizing u with
  | nil =>
    rintro ⟨⟩
    simp [expandLater, hb]
  | cons a bs ih =>
    intro hu
    simp only [expandLater] at hu
    cases ha : expandByte a with
    | none => simp [ha] at hu
    | some y =>
      cases hbs : expandLater bs with
      | none => simp [ha, hbs] at hu
      | some v =>
        simp only [ha, hbs, Option.some.injEq] at hu
        simp only [List.cons_append, expandLater, ha, ih hbs, ← hu, List.append_assoc]

theorem expand_append {W : List Byte} {b : Byte} {u x : List Byte} (hW : expand W = some u)
    (hb : expandByte b = some x) : expand (W ++ [b]) = some (u ++ x) := by
  cases W with
  | nil => cases hW
  | cons p bs =>
    by_cases hp : p.toNat < pfxRom.length
    · cases hbs : expandLater bs with
      | none => simp [expand, hp, hbs] at hW
      | some v =>
        simp only [expand, if_pos hp, hbs, Option.some.injEq] at hW
        simp only [List.cons_append, expand, if_pos hp, expandLater_append hb hbs, ← hW, List.append_assoc]
    · simp [expand, hp] at hW

/-- The token of a prefix expands to the prefix (R76). -/
theorem expand_tokenByte {p : Nat} (h : p < pfxRom.length) : expand [tokenByte p] = some (romEntry pfxRom p) := by
  revert p; decide

/-- The token of a suffix expands to the suffix (R76). -/
theorem expandByte_tokenByte {j : Nat} (h : j < sfxRom.length) :
    expandByte (tokenByte j) = some (romEntry sfxRom j) := by
  revert j; decide

/-- A literal expands to itself (R76). -/
theorem expandByte_of_isLiteral {b : Byte} (h : isLiteral b = true) : expandByte b = some [b] := by
  have hlo := ((isLiteral_iff b).1 h).1
  have hsfx : ¬ b.toNat < sfxRom.length := by
    have : sfxRom.length = 14 := rfl
    omega
  rw [expandByte, if_neg hsfx, if_pos h]

/-- Up to the end of an entry that matches at c the input is the input up to c and the entry (R101). -/
theorem Matches.take_add {url t : List Byte} {c : Nat} (h : Matches url t c) :
    url.take (c + t.length) = url.take c ++ t := by
  rw [List.take_add, ← List.prefix_iff_eq_take.1 h.prefix_drop]

/-- The byte a pass emits expands to the bytes its cursor moves over (R76, R103, R104). -/
theorem Emits.expandByte {url : List Byte} {c c' : Nat} {b : Byte} (h : Emits url c b c') :
    ∃ x, expandByte b = some x ∧ url.take c' = url.take c ++ x := by
  cases h with
  | suffix j first =>
    obtain ⟨hj, hmatch, -⟩ := first
    exact ⟨_, expandByte_tokenByte hj, hmatch.take_add⟩
  | literal ch inside none lit =>
    obtain ⟨hch, hrange⟩ := lit
    refine ⟨[b], expandByte_of_isLiteral ((isLiteral_iff b).2 hrange), ?_⟩
    rw [List.take_add_one, hch]
    rfl

/-- Wherever the scan is, the output expands to the input up to the cursor (R76). -/
theorem Reached.expand_eq {url : List Byte} {c : Nat} {W : List Byte} (h : Reached url c W) :
    expand W = some (url.take c) := by
  induction h with
  | start p first =>
    obtain ⟨hp, hmatch, -⟩ := first
    refine (expand_tokenByte hp).trans (congrArg some ?_)
    simpa using hmatch.take_add.symm
  | pass c W b c' before emits room ih =>
    obtain ⟨x, hx, htake⟩ := emits.expandByte
    rw [expand_append ih hx, htake]

/-- The output with which the scan ends expands to the whole input. -/
theorem Reached.expand_eq_url {url out : List Byte} (h : Reached url url.length out) : expand out = some url := by
  rw [h.expand_eq, List.take_length]

/-- Settles O29: the stream after ENCODE is the scan's output. -/
theorem expandInvertsEncode : Obligations.ExpandInvertsEncode := fun s =>
  exec_encode_ok s fun out hreached => by rw [stream_commitCu hreached.length_le, hreached.expand_eq_url]

/-- FR[13] to FR[8 + FR[7]] of format URL is the stream (R72, R74 g). -/
theorem stream_of_urlFrame (tx culen : Byte) {stream : List Byte} (hlen : culen.toNat = stream.length)
    (h : stream.length ≤ 18) :
    ((urlFrame tx culen stream).toList.drop 13).take ((urlFrame tx culen stream)[7].toNat - 4) = stream := by
  have hseven : (urlFrame tx culen stream)[7].toNat - 4 = stream.length := by
    rw [(urlFrame_head tx culen h).1, sdLenUrl_eq, BitVec.toNat_ofNat]
    omega
  rw [hseven, toList_urlFrame tx culen stream h]
  exact List.take_left

/-- Settles O30: the stream ENCODE leaves has a length BUILD_URL accepts, and the frame carries it whole. -/
theorem urlRecoversFromTheBuiltFrame : Obligations.UrlRecoversFromTheBuiltFrame := by
  intro s
  refine exec_encode_ok s fun out hreached => ?_
  have hlen := hreached.length_le
  have hculen := toNat_culen_commitCu hlen s
  have hstream := stream_commitCu hlen s
  refine ⟨_, exec_buildUrl_of_culen (by omega), rfl, ?_⟩
  rw [done_fr, commitFr_fr, stream_of_urlFrame _ _ (by rw [hstream, hculen]) (by rw [hstream]; exact hlen), hstream,
    hreached.expand_eq_url]

/-- Settles O32: the failed ENCODE is a raise, and BUILD_URL depends neither on STATUS nor on the working
variables. -/
theorem failedEncodeLeavesTheOldStream : Obligations.FailedEncodeLeavesTheOldStream := by
  intro s t k hexec hk
  obtain ⟨t', ht', hexit⟩ := exec_command (i := .encode) rfl s
  obtain rfl : t' = t := Host.Outcome.next.inj (ht'.symm.trans hexec)
  rw [hexit.eq_raise hk, raise_eq, commandsIgnoreEarlierResults .buildUrl s _ _ rfl]
  exact ⟨_, exec_buildUrl s, exec_buildUrl s⟩

end Sys2Proof.Machine
end

section
/-! PROOFS of the family `other`, the rows that are no command (log entries 4 to 7): the stream rows while
ENCODE or a build runs, and the rows that lay a frame out. -/

namespace Sys2Proof.Machine

/-! ### Prefix rows -/

theorem pfxToken_of_idle (p : Nat) {s : State} (h : s.work = .idle) : pfxToken p s = emitPrefix p s := by
  rw [pfxToken, h]

theorem pfxToken_of_encoding (p : Nat) {s : State} {c : Nat} {out : List Byte} (h : s.work = .encoding c out) :
    pfxToken p s = s := by
  rw [pfxToken, h]

/-- ENC.PFX for token p where entry q is the first match (R102): the token is emitted if it is that entry's. -/
theorem emitPrefix_of_firstAt {p q : Nat} {s : State} (hp : p < pfxRom.length) (h : FirstAt pfxRom s.url 0 q) :
    emitPrefix p s = if q = p then s.setWork (.encoding (romEntry pfxRom q).length [tokenByte q]) else s := by
  have htokens : ∀ i < pfxRom.length, ∀ j < pfxRom.length, [tokenByte i] = [tokenByte j] ↔ i = j := by decide
  simp only [emitPrefix, encPfx_of_firstAt h, htokens q h.1 p hp]

theorem emitPrefix_of_noneAt (p : Nat) {s : State} (h : NoneAt pfxRom s.url 0) :
    emitPrefix p s = raise .invalidPrefix s := by
  simp only [emitPrefix, encPfx_of_noneAt h]

/-- Settles O33: in an idle block the row is ENC.PFX for its token. -/
theorem prefixRowsEmitTheMatchedPrefix : Obligations.PrefixRowsEmitTheMatchedPrefix := by
  intro i p s hrow hidle hfirst
  rw [exec_prefixRow i p s hrow, pfxToken_of_idle p hidle, emitPrefix_of_firstAt hfirst.1 hfirst, if_pos rfl]
  rfl

/-- Settles O34: ENC.PFX raises without a match and emits no other entry's token; ENCODE looks for a prefix
once. -/
theorem prefixRowsElsewhere : Obligations.PrefixRowsElsewhere := by
  intro i p s hrow
  rw [exec_prefixRow i p s hrow]
  refine ⟨fun hidle hnone => ?_, fun q hidle hfirst hne => ?_, fun c out hwork => ?_⟩
  · rw [pfxToken_of_idle p hidle, emitPrefix_of_noneAt p hnone, raise_eq]
  · rw [pfxToken_of_idle p hidle, emitPrefix_of_firstAt (prefixRow_byte _ hrow).1 hfirst, if_neg hne]
  · rw [pfxToken_of_encoding p hwork]

/-! ### Suffix rows -/

theorem sfxToken_of_idle (j : Nat) {s : State} (h : s.work = .idle) : sfxToken j s = s := by
  rw [sfxToken, h]

theorem sfxToken_of_encoding (j : Nat) {s : State} {c : Nat} {out : List Byte} (h : s.work = .encoding c out) :
    sfxToken j s = emitSuffix j c out s := by
  rw [sfxToken, h]

/-- Settles O35: the row is ENC.SFX for its token, and its entry is the first match. -/
theorem suffixRowsEmitTheMatchedSuffix : Obligations.SuffixRowsEmitTheMatchedSuffix := by
  intro i j c out s hrow hwork hfirst
  rw [exec_suffixRow i j s hrow, sfxToken_of_encoding j hwork, emitSuffix_of_first j c out s hfirst]
  refine ⟨fun hroom => ?_, fun hfull => ?_⟩
  · rw [if_neg hroom]
    rfl
  · rw [if_pos hfull, raise_eq]

/-- Settles O60: the row's entry is not the first match: another is, or none matches, as at the end of the
input; between commands the row does nothing. -/
theorem suffixRowsElsewhere : Obligations.SuffixRowsElsewhere := by
  intro i j s hrow
  rw [exec_suffixRow i j s hrow]
  have hnot {c : Nat} {out : List Byte} (hwork : s.work = .encoding c out) (h : ¬ FirstAt sfxRom s.url c j) :
      Host.Outcome.next (φ := Fault) (ρ := Refusal) (sfxToken j s) = .next s := by
    rw [sfxToken_of_encoding j hwork, emitSuffix_of_not_first j c out s h]
  have hnone {c : Nat} (h : NoneAt sfxRom s.url c) : ¬ FirstAt sfxRom s.url c j := fun ⟨hj, hmatch, _⟩ =>
    h j hj hmatch
  refine ⟨fun c out j' hwork hfirst hne => hnot hwork fun hj => hne (hfirst.unique hj),
    fun c out hwork h => hnot hwork (hnone h),
    fun c out hwork hend => hnot hwork (hnone (noneAt_end s.url c hend)), fun hidle => ?_⟩
  rw [sfxToken_of_idle j hidle]

/-! ### Literal rows -/

/-- Every literal row is the literal token of its byte. -/
theorem exec_literalRow {i : Instr} {ch : Byte} (h : LiteralRow i ch) (s : State) :
    exec i s = .next (litToken ch s) := by
  obtain ⟨-, -, henc, -⟩ := h.byte
  cases h <;> exact congrArg (fun b => Host.Outcome.next (litToken b s)) (List.head_eq_of_cons_eq henc)

theorem litToken_of_idle (ch : Byte) {s : State} (h : s.work = .idle) : litToken ch s = s := by
  rw [litToken, h]

theorem litToken_of_encoding (ch : Byte) {s : State} {c : Nat} {out : List Byte} (h : s.work = .encoding c out) :
    litToken ch s = emitLiteral ch c out s := by
  rw [litToken, h]

theorem LiteralAt.inside {url : List Byte} {c : Nat} {b : Byte} (h : LiteralAt url c b) : c < url.length :=
  (List.getElem?_eq_some_iff.1 h.1).1

theorem RejectedAt.inside {url : List Byte} {c : Nat} (h : RejectedAt url c) : c < url.length := by
  obtain ⟨ch, hch, -⟩ := h
  exact (List.getElem?_eq_some_iff.1 hch).1

/-- ENC.LIT for the literal ch where the literal b is due (R104, R105): emitted if it is b. -/
theorem emitLiteral_of_literalAt {ch b : Byte} {c : Nat} {s : State} (out : List Byte)
    (hnone : NoneAt sfxRom s.url c) (hlit : LiteralAt s.url c b) :
    emitLiteral ch c out s = if b = ch then
      (if out.length = 18 then raise .tooLong s else s.setWork (.encoding (c + 1) (out ++ [b]))) else s := by
  simp only [emitLiteral, if_pos (And.intro hlit.inside ((firstMatch_eq_none ..).2 hnone)), encLit_of_literalAt hlit,
    encEmit_eq]
  split
  · split <;> rfl
  · rfl

/-- ENC.LIT where a rejected byte is due (R104). -/
theorem emitLiteral_of_rejectedAt (ch : Byte) {c : Nat} {s : State} (out : List Byte)
    (hnone : NoneAt sfxRom s.url c) (hbad : RejectedAt s.url c) :
    emitLiteral ch c out s = raise .invalidCharacter s := by
  simp only [emitLiteral, if_pos (And.intro hbad.inside ((firstMatch_eq_none ..).2 hnone)), encLit_of_rejectedAt hbad]

/-- ENC.LIT is not due where a suffix matches (R103). -/
theorem emitLiteral_of_firstAt (ch : Byte) {c j : Nat} {s : State} (out : List Byte)
    (hfirst : FirstAt sfxRom s.url c j) : emitLiteral ch c out s = s := by
  refine if_neg fun h => ?_
  exact absurd (((firstMatch_eq_some ..).2 hfirst).symm.trans h.2) (by simp)

/-- Nor is it at the end of the input (R106). -/
theorem emitLiteral_of_end (ch : Byte) {c : Nat} {s : State} (out : List Byte) (h : s.url.length ≤ c) :
    emitLiteral ch c out s = s :=
  if_neg fun hinside => absurd hinside.1 (not_lt.2 h)

/-- Settles O36: the row is ENC.LIT for its byte, which is the one at the cursor. -/
theorem literalRowsEmitTheByteAtTheCursor : Obligations.LiteralRowsEmitTheByteAtTheCursor := by
  intro i ch c out s hrow hwork hnone hch
  have hlit : LiteralAt s.url c ch := ⟨hch, (isLiteral_iff ch).1 hrow.byte.1⟩
  rw [exec_literalRow hrow, litToken_of_encoding ch hwork, emitLiteral_of_literalAt out hnone hlit, if_pos rfl]
  refine ⟨fun hroom => ?_, fun hfull => ?_⟩
  · rw [if_neg hroom]
    rfl
  · rw [if_pos hfull, raise_eq]

/-- Settles O37: ENC.LIT raises at a rejected byte and emits no other byte than the one at the cursor; it is not
due where a suffix matches, at the end of the input, and between commands. -/
theorem literalRowsElsewhere : Obligations.LiteralRowsElsewhere := by
  intro i ch s hrow
  rw [exec_literalRow hrow]
  refine ⟨fun c out hwork hnone hbad => ?_, fun c out b hwork hnone hlit hne => ?_, fun c out j hwork hfirst => ?_,
    fun c out hwork hend => ?_, fun hidle => ?_⟩
  · rw [litToken_of_encoding ch hwork, emitLiteral_of_rejectedAt ch out hnone hbad, raise_eq]
  · rw [litToken_of_encoding ch hwork, emitLiteral_of_literalAt out hnone hlit, if_neg hne]
  · rw [litToken_of_encoding ch hwork, emitLiteral_of_firstAt ch out hfirst]
  · rw [litToken_of_encoding ch hwork, emitLiteral_of_end ch out hend]
  · rw [litToken_of_idle ch hidle]

/-! ### Stream rows while a frame is built -/

theorem copyFirst_zero (b : Byte) (f : Frame) (s : State) : copyFirst b f 0 s = copyByte b f 0 s := rfl

theorem copyFirst_of_pos (b : Byte) (f : Frame) {k : Nat} (hk : 0 < k) (s : State) : copyFirst b f k s = s :=
  if_neg hk.ne'

theorem copyLater_zero (b : Byte) (f : Frame) (s : State) : copyLater b f 0 s = s := rfl

theorem copyLater_of_pos (b : Byte) (f : Frame) {k : Nat} (hk : 0 < k) (s : State) :
    copyLater b f k s = copyByte b f k s :=
  if_neg hk.ne'

/-- While a frame is built, a stream row at the position its format is for is a turn of the copy loop, and does
nothing at any other position (R64, R65, R132). -/
theorem exec_streamRow_building {i : Instr} {s : State} {f : Frame} {b : Byte} {k : Nat} (henc : encode i = [b])
    (hfmt : formatOf i = .t0 ∨ formatOf i = .tb) (hwork : s.work = .building f k) :
    exec i s = .next (if formatOf i = .t0 ↔ k = 0 then copyByte b f k s else s) := by
  obtain hfmt | hfmt := hfmt
  · rw [exec_t0Row_building i s f b k henc hfmt hwork, hfmt]
    obtain rfl | hk := Nat.eq_zero_or_pos k
    · rw [copyFirst_zero, if_pos (by simp)]
    · rw [copyFirst_of_pos b f hk, if_neg (by simp [hk.ne'])]
  · rw [exec_tbRow_building i s f b k henc hfmt hwork, hfmt]
    obtain rfl | hk := Nat.eq_zero_or_pos k
    · rw [copyLater_zero, if_neg (by simp)]
    · rw [copyLater_of_pos b f hk, if_pos (by simp [hk.ne'])]

/-- Settles O39: the turn of the copy loop where the position fits, which copies the byte where it is next. -/
theorem streamRowsAreCopiedUnexamined : Obligations.StreamRowsAreCopiedUnexamined := by
  intro i s f b k henc hfmt hwork
  rw [exec_streamRow_building henc hfmt hwork]
  refine ⟨fun hposition hurl hk hb => ?_, fun hnot => ?_⟩
  · obtain ⟨g, hbyte, hrest, hcopy⟩ := copyByte_of_next b f k s hurl hk hb
    exact ⟨g, hbyte, hrest, by rw [if_pos hposition, hcopy]; rfl⟩
  · by_cases hposition : formatOf i = .t0 ↔ k = 0
    · rw [if_pos hposition]
      obtain ⟨ht0, hk⟩ | ⟨htb, rfl⟩ | hnext := hnot
      · exact absurd (hposition.1 ht0) hk.ne'
      · rw [htb] at hposition
        exact absurd (hposition.2 rfl) (by decide)
      · rw [copyByte_of_not_next b f k s hnext]
    · rw [if_neg hposition]

/-- Settles O38: while a URL frame is built the reserved rows are stream rows like any other; they do nothing
while no frame is built. -/
theorem reservedStreamBytesAreCopied : Obligations.ReservedStreamBytesAreCopied := by
  intro s b
  refine ⟨fun f k hwork hurl hk hb => ?_, fun hwork => ?_⟩
  · obtain ⟨g, hbyte, hrest, hcopy⟩ := copyByte_of_next b f k s hurl hk hb
    refine ⟨g, hbyte, hrest, fun hzero => ?_, fun hpos => ?_⟩
    · subst hzero
      rw [exec_streamRow_building rfl (.inl rfl) hwork, if_pos (by simp [formatOf]), hcopy]
      rfl
    · rw [exec_streamRow_building rfl (.inr rfl) hwork, if_pos (by simp [formatOf, hpos.ne']), hcopy]
      rfl
  · have hsame : reservedFirst b s = s ∧ reservedLater b s = s := by
      obtain hidle | ⟨c, out, hencoding⟩ := hwork
      · exact ⟨by rw [reservedFirst, hidle], by rw [reservedLater, hidle]⟩
      · exact ⟨by rw [reservedFirst, hencoding], by rw [reservedLater, hencoding]⟩
    exact ⟨congrArg _ hsame.1, congrArg _ hsame.2⟩

end Sys2Proof.Machine
end

section
/-! PROOFS of the family `other`, the rows of formats FT and AD (`41_frame_builder.md`, log entry 6), and what any
row that is no command can do. -/

namespace Sys2Proof.Machine

/-! ### Frame-type rows -/

theorem exec_frameUid (s : State) : exec .frameUid s = .next (layOut 0 (assembleUid s) s) := rfl

theorem exec_frameUrl (s : State) : exec .frameUrl s = .next (layOut s.culen.toNat (assembleUrl s) s) := rfl

theorem exec_frameTlm (s : State) : exec .frameTlm s = .next (layOut 0 (.ok (tlmFrame s.advcnt s.elapsed)) s) := rfl

theorem layOut_of_encoding (k : Nat) (r : Except ErrKind Frame) {s : State} {c : Nat} {out : List Byte}
    (h : s.work = .encoding c out) : layOut k r s = s := by
  simp only [layOut, h]

theorem layOut_ok (k : Nat) (f : Frame) {s : State} (h : ∀ c out, s.work ≠ .encoding c out) :
    layOut k (.ok f) s = s.setWork (.building f k) := by
  cases hw : s.work with
  | encoding c out => exact absurd hw (h c out)
  | idle | building => simp only [layOut, hw]

theorem layOut_error (k : Nat) (e : ErrKind) {s : State} (h : ∀ c out, s.work ≠ .encoding c out) :
    layOut k (.error e) s = raise e s := by
  cases hw : s.work with
  | encoding c out => exact absurd hw (h c out)
  | idle | building => simp only [layOut, hw]

/-- FRAME.UID where BUILD_UID's precondition holds (R71, R131). -/
theorem exec_frameUid_of_lengths {s : State} (hwork : ∀ c out, s.work ≠ .encoding c out) (hnid : s.nidlen = 10#8)
    (hbid : s.bidlen = 6#8) :
    exec .frameUid s = .next (s.setWork (.building (uidFrame s.txpower s.nidbuf s.bidbuf) 0)) := by
  obtain ⟨hbad, -⟩ | ⟨-, -, hok⟩ := assembleUid_cases s
  · exact absurd hbad (by simp [hnid, hbid])
  · rw [exec_frameUid, hok, layOut_ok 0 _ hwork]

/-- FRAME.URL where BUILD_URL's re-check holds (R72, R132). -/
theorem exec_frameUrl_of_culen {s : State} (hwork : ∀ c out, s.work ≠ .encoding c out) (h : s.culen.toNat ≤ 18) :
    exec .frameUrl s = .next (s.setWork (.building (urlFrame s.txpower s.culen s.stream) s.culen.toNat)) := by
  obtain ⟨hlong, -⟩ | ⟨-, hok⟩ := assembleUrl_cases s
  · omega
  · rw [exec_frameUrl, hok, layOut_ok _ _ hwork]

/-- FRAME.TLM, which has no precondition (R73, R133). -/
theorem exec_frameTlm_eq {s : State} (hwork : ∀ c out, s.work ≠ .encoding c out) :
    exec .frameTlm s = .next (s.setWork (.building (tlmFrame s.advcnt s.elapsed) 0)) := by
  rw [exec_frameTlm, layOut_ok 0 _ hwork]

/-- The frame a build command commits is what FR holds afterwards (R135). -/
theorem fr_done_commitFr (f : Frame) (s : State) : (done (commitFr f s)).fr = f := by
  rw [done_fr, commitFr_fr]

/-- Settles O40: a frame-type row lays out what its builder assembles, and the build commits the same. -/
theorem frameRowsLayOutTheBuiltFrame : Obligations.FrameRowsLayOutTheBuiltFrame := by
  intro s hwork
  refine ⟨fun hnid hbid => ?_, fun hlen => ?_, ?_⟩
  · exact ⟨_, _, exec_frameUid_of_lengths hwork hnid hbid, exec_buildUid_of_lengths hnid hbid, fr_done_commitFr ..,
      (uidFrame_head ..).2⟩
  · have hstream : s.stream.length ≤ 18 := (length_stream s hlen).trans_le hlen
    exact ⟨_, _, exec_frameUrl_of_culen hwork hlen, exec_buildUrl_of_culen hlen, fr_done_commitFr ..,
      (urlFrame_head _ _ hstream).2⟩
  · exact ⟨_, _, exec_frameTlm_eq hwork, exec_buildTlm_eq s, fr_done_commitFr .., (tlmFrame_head ..).2⟩

/-! ### AD rows -/

/-- What an AD row writes into the working frame (R130). -/
def adBytes : Instr → Frame → Frame
  | .adFlags => putAdFlags
  | .adUuid16List => putAdUuid16List
  | .adServiceData len ftype => putAdServiceData len ftype.byte
  | _ => id

/-- Every AD row lays its bytes into the working frame. -/
theorem exec_adRow {i : Instr} (h : formatOf i = .ad) (s : State) : exec i s = .next (layIn (adBytes i) s) := by
  cases i <;> cases h <;> rfl

/-- The frame an AD row writes into, with the copy index: the one being built, or a fresh one (R134). -/
def State.layingOut (s : State) (f : Frame) (k : Nat) : Prop :=
  s.work = .building f k ∨ (s.work = .idle ∧ f = zeroFrame ∧ k = 0)

theorem layIn_of_layingOut (g : Frame → Frame) {s : State} {f : Frame} {k : Nat} (h : s.layingOut f k) :
    layIn g s = s.setWork (.building (g f) k) := by
  obtain hbuilding | ⟨hidle, rfl, rfl⟩ := h
  · rw [layIn, hbuilding]
  · rw [layIn, hidle]

/-- An AD row leaves its frame as the one being built. -/
theorem layingOut_setWork (s : State) (f : Frame) (k : Nat) : (s.setWork (.building f k)).layingOut f k := .inl rfl

theorem layIn_of_encoding (g : Frame → Frame) {s : State} {c : Nat} {out : List Byte} (h : s.work = .encoding c out) :
    layIn g s = s := by
  rw [layIn, h]

/-- Settles O41: the precondition's raise is the assembly's, and ENCODE's working variables stop both kinds of
row. -/
theorem frameAndAdRowsElsewhere : Obligations.FrameAndAdRowsElsewhere := by
  intro s
  refine ⟨fun hwork => ⟨fun hlengths => ?_, fun hlong => ?_⟩, fun i c out hwork hfmt => ?_⟩
  · rw [exec_frameUid, (assembleUid_eq_invalidLength_iff s).2 hlengths, layOut_error 0 _ hwork, raise_eq]
  · obtain ⟨-, herr⟩ | ⟨hfits, -⟩ := assembleUrl_cases s
    · rw [exec_frameUrl, herr, layOut_error _ _ hwork, raise_eq]
    · omega
  · obtain hft | had := hfmt
    · cases i <;> cases hft
      · rw [exec_frameUid, layOut_of_encoding _ _ hwork]
      · rw [exec_frameUrl, layOut_of_encoding _ _ hwork]
      · rw [exec_frameTlm, layOut_of_encoding _ _ hwork]
    · rw [exec_adRow had, layIn_of_encoding _ hwork]

/-- Settles O43: each row's bytes are those of its encoding, put at its offset into the working frame. -/
theorem adRowsWriteTheirOwnBytes : Obligations.AdRowsWriteTheirOwnBytes := by
  intro i s a hrow f k hwork
  have had : formatOf i = .ad := by
    obtain ⟨rfl, -⟩ | ⟨rfl, -⟩ | ⟨l, ft, rfl, -⟩ := hrow <;> rfl
  have hput : adBytes i f = putBytes f a (encode i) ∧ a + (encode i).length ≤ 31 := by
    obtain ⟨rfl, rfl⟩ | ⟨rfl, rfl⟩ | ⟨l, ft, rfl, rfl⟩ := hrow <;> exact ⟨rfl, by simp [encode]⟩
  refine ⟨adBytes i f, ?_, by rw [hput.1, toList_putBytes _ _ _ hput.2]⟩
  rw [exec_adRow had, layIn_of_layingOut _ hwork]
  rfl

/-! ### Rows run one after the other -/

theorem execAll_cons {i : Instr} {s t : State} (is : List Instr) (h : exec i s = .next t) :
    execAll (i :: is) s = execAll is t := by
  simp only [execAll, h]

theorem execAll_append {is : List Instr} (js : List Instr) : ∀ {s t : State}, execAll is s = .next t →
    execAll (is ++ js) s = execAll js t := by
  induction is with
  | nil =>
    rintro s t ⟨⟩
    rfl
  | cons i is ih =>
    intro s t h
    rw [List.cons_append]
    cases hi : exec i s with
    | next u =>
      rw [execAll_cons is hi] at h
      rw [execAll_cons _ hi, ih h]
    | fault r | refused r => simp [execAll, hi] at h

/-- The three AD rows in order are PRE (R130). -/
theorem execAll_preamble {s : State} {f : Frame} {k : Nat} (hwork : s.layingOut f k) (sdlen : Byte)
    (ft : FrameType) : execAll [.adFlags, .adUuid16List, .adServiceData sdlen ft] s =
      .next (s.setWork (.building (putPre sdlen ft.byte f) k)) := by
  rw [execAll_cons _ (exec_adRow rfl s), layIn_of_layingOut _ hwork, execAll_cons _ (exec_adRow rfl _),
    layIn_of_layingOut _ (layingOut_setWork ..), execAll_cons _ (exec_adRow rfl _),
    layIn_of_layingOut _ (layingOut_setWork ..)]
  rfl

/-- Settles O42: PRE's twelve bytes on any working frame; a command byte always decodes to a command row. -/
theorem preambleIsTheThreeAdRows : Obligations.PreambleIsTheThreeAdRows := by
  refine ⟨fun s f k sdlen ft hwork => ?_, fun v rest => ⟨_, rfl, of_decide_eq_true (isCommand_decodeCmd v)⟩⟩
  exact ⟨_, execAll_preamble (.inl hwork) sdlen ft, toList_putPre ..⟩

/-! ### What a row that is no command can do -/

/-- The ends of a row that is no command: nothing changes, an error other than BadCommand is raised, or the
working variables change within their range. -/
inductive MicroExit (s : State) : State → Prop where
  | same : MicroExit s s
  | raised (k : ErrKind) (kind : k ≠ .badCommand) : MicroExit s (raise k s)
  | worked (w : Work) (range : workOk s.work = true → workOk w = true) : MicroExit s (s.setWork w)

/-! #### Stream rows -/

/-- A turn of the copy loop stays inside CU (R132). -/
theorem copyByte_exit (b : Byte) (s : State) (f : Frame) (k : Nat) : MicroExit s (copyByte b f k s) := by
  by_cases hnext : f[11] ≠ 0x10#8 ∨ s.culen.toNat ≤ k ∨ s.cu[k]? ≠ some b
  · rw [copyByte_of_not_next b f k s hnext]
    exact .same
  · rw [not_or, not_or, not_not, not_le, not_not] at hnext
    obtain ⟨hurl, hk, hb⟩ := hnext
    obtain ⟨g, -, -, hcopy⟩ := copyByte_of_next b f k s hurl hk hb
    have hinside : k < 18 := (Vector.getElem?_eq_some_iff.1 hb).1
    rw [hcopy]
    exact .worked _ fun _ => decide_eq_true hinside

theorem copyFirst_exit (b : Byte) (s : State) (f : Frame) (k : Nat) : MicroExit s (copyFirst b f k s) := by
  obtain rfl | hk := Nat.eq_zero_or_pos k
  · exact copyByte_exit b s f 0
  · rw [copyFirst_of_pos b f hk]
    exact .same

theorem copyLater_exit (b : Byte) (s : State) (f : Frame) (k : Nat) : MicroExit s (copyLater b f k s) := by
  obtain rfl | hk := Nat.eq_zero_or_pos k
  · exact .same
  · rw [copyLater_of_pos b f hk]
    exact copyByte_exit b s f k

/-- A token stream has at most 18 bytes (R20). -/
theorem length_le_of_streamOk {W : List Byte} (h : streamOk W = true) : W.length ≤ 18 := by
  cases W with
  | nil => cases h
  | cons p bs =>
    simp only [streamOk, Bool.and_eq_true, decide_eq_true_eq] at h
    obtain ⟨⟨-, hlen⟩, -⟩ := h
    exact Nat.succ_le_succ hlen

/-- An emission raises TooLong, or stores its byte in a stream that has room (R105). -/
theorem emission_exit {s : State} {c c' : Nat} {out : List Byte} {b : Byte} (hwork : s.work = .encoding c out)
    (hb : b.toNat ≤ 13 ∨ isLiteral b = true) :
    MicroExit s (if out.length = 18 then raise .tooLong s else s.setWork (.encoding c' (out ++ [b]))) := by
  split
  · exact .raised _ (by decide)
  case isFalse hroom =>
    refine .worked _ fun hok => ?_
    rw [hwork] at hok
    exact streamOk_append hok (lt_of_le_of_ne (length_le_of_streamOk hok) hroom) hb

/-- A prefix row (R102, R132). -/
theorem pfxToken_exit {p : Nat} (hp : p < pfxRom.length) (s : State) : MicroExit s (pfxToken p s) := by
  cases hwork : s.work with
  | idle =>
    rw [pfxToken_of_idle p hwork]
    obtain ⟨hnone, -⟩ | ⟨q, hfirst, -⟩ := encPfx_cases s.url
    · rw [emitPrefix_of_noneAt p hnone]
      exact .raised _ (by decide)
    · rw [emitPrefix_of_firstAt hp hfirst]
      split
      · exact .worked _ fun _ => streamOk_tokenByte hfirst.1
      · exact .same
  | encoding c out =>
    rw [pfxToken_of_encoding p hwork]
    exact .same
  | building f k =>
    rw [pfxToken_building p s f k hwork]
    exact copyFirst_exit ..

/-- A suffix row (R103, R132). -/
theorem sfxToken_exit (j : Nat) (s : State) : MicroExit s (sfxToken j s) := by
  cases hwork : s.work with
  | idle =>
    rw [sfxToken_of_idle j hwork]
    exact .same
  | encoding c out =>
    rw [sfxToken_of_encoding j hwork]
    by_cases hfirst : FirstAt sfxRom s.url c j
    · rw [emitSuffix_of_first j c out s hfirst]
      exact emission_exit hwork (Emits.suffix j hfirst).byte
    · rw [emitSuffix_of_not_first j c out s hfirst]
      exact .same
  | building f k =>
    rw [sfxToken_building j s f k hwork]
    exact copyLater_exit ..

theorem emitLiteral_exit (ch : Byte) {s : State} {c : Nat} {out : List Byte} (hwork : s.work = .encoding c out) :
    MicroExit s (emitLiteral ch c out s) := by
  obtain hend | hinside := le_or_gt s.url.length c
  · rw [emitLiteral_of_end ch out hend]
    exact .same
  · cases hsfx : firstMatch sfxRom s.url c with
    | some j =>
      rw [emitLiteral_of_firstAt ch out ((firstMatch_eq_some ..).1 hsfx)]
      exact .same
    | none =>
      have hnone := (firstMatch_eq_none ..).1 hsfx
      obtain ⟨hbad, -⟩ | ⟨b, hlit, -⟩ := encLit_cases s.url c hinside
      · rw [emitLiteral_of_rejectedAt ch out hnone hbad]
        exact .raised _ (by decide)
      · rw [emitLiteral_of_literalAt out hnone hlit]
        split
        · exact emission_exit hwork (.inr ((isLiteral_iff b).2 hlit.2))
        · exact .same

/-- A literal row (R104, R132). -/
theorem litToken_exit (ch : Byte) (s : State) : MicroExit s (litToken ch s) := by
  cases hwork : s.work with
  | idle =>
    rw [litToken_of_idle ch hwork]
    exact .same
  | encoding c out =>
    rw [litToken_of_encoding ch hwork]
    exact emitLiteral_exit ch hwork
  | building f k =>
    rw [litToken_building ch s f k hwork]
    exact copyLater_exit ..

/-- The reserved rows (R68). -/
theorem reservedFirst_exit (b : Byte) (s : State) : MicroExit s (reservedFirst b s) := by
  cases hwork : s.work with
  | building f k =>
    rw [reservedFirst_building b s f k hwork]
    exact copyFirst_exit ..
  | idle | encoding =>
    simp only [reservedFirst, hwork]
    exact .same

theorem reservedLater_exit (b : Byte) (s : State) : MicroExit s (reservedLater b s) := by
  cases hwork : s.work with
  | building f k =>
    rw [reservedLater_building b s f k hwork]
    exact copyLater_exit ..
  | idle | encoding =>
    simp only [reservedLater, hwork]
    exact .same

/-! #### Frame-type and AD rows -/

/-- A frame-type row raises what its builder raises, never BadCommand (R131, R132). -/
theorem layOut_exit {k : Nat} {r : Except ErrKind Frame} (herr : r ≠ .error .badCommand)
    (hk : ∀ f, r = .ok f → k ≤ 18) (s : State) : MicroExit s (layOut k r s) := by
  by_cases hwork : ∃ c out, s.work = .encoding c out
  · obtain ⟨c, out, hencoding⟩ := hwork
    rw [layOut_of_encoding k r hencoding]
    exact .same
  · push Not at hwork
    cases r with
    | error e =>
      rw [layOut_error k e hwork]
      exact .raised e fun h => herr (congrArg _ h)
    | ok f =>
      rw [layOut_ok k f hwork]
      exact .worked _ fun _ => decide_eq_true (hk f rfl)

theorem layIn_exit (g : Frame → Frame) (s : State) : MicroExit s (layIn g s) := by
  cases hwork : s.work with
  | idle =>
    rw [layIn_of_layingOut g (.inr ⟨hwork, rfl, rfl⟩)]
    exact .worked _ fun _ => rfl
  | encoding c out =>
    rw [layIn_of_encoding g hwork]
    exact .same
  | building f k =>
    rw [layIn_of_layingOut g (.inl hwork)]
    exact .worked _ fun hok => by rwa [hwork] at hok

theorem exec_ftRow_exit {i : Instr} (hfmt : formatOf i = .ft) (s : State) : ∃ t, exec i s = .next t ∧ MicroExit s t := by
  cases i <;> cases hfmt
  case frameUid =>
    refine ⟨_, exec_frameUid s, layOut_exit ?_ (fun _ _ => Nat.zero_le _) s⟩
    obtain ⟨-, h⟩ | ⟨-, -, h⟩ := assembleUid_cases s <;> simp [h]
  case frameUrl =>
    refine ⟨_, exec_frameUrl s, ?_⟩
    obtain ⟨-, h⟩ | ⟨hlen, h⟩ := assembleUrl_cases s
    · exact layOut_exit (by simp [h]) (by simp [h]) s
    · exact layOut_exit (by simp [h]) (fun _ _ => hlen) s
  case frameTlm => exact ⟨_, exec_frameTlm s, layOut_exit (by simp) (fun _ _ => Nat.zero_le _) s⟩

/-! #### All of them -/

/-- Every row that is no command answers a next state, by one of the ends (log entries 4 to 7). -/
theorem exec_microRow {i : Instr} (h : isCommand i = false) (s : State) : ∃ t, exec i s = .next t ∧ MicroExit s t := by
  cases hfmt : formatOf i with
  | cmd => exact absurd h (by simp [isCommand, hfmt])
  | t0 =>
    obtain ⟨p, hp⟩ | ⟨b, rfl⟩ := t0Row_cases hfmt
    · exact ⟨_, exec_prefixRow i p s hp, pfxToken_exit (prefixRow_byte _ hp).1 s⟩
    · exact ⟨_, rfl, reservedFirst_exit b s⟩
  | tb =>
    obtain ⟨j, hj⟩ | ⟨b, hb⟩ | ⟨b, rfl⟩ := tbRow_cases hfmt
    · exact ⟨_, exec_suffixRow i j s hj, sfxToken_exit j s⟩
    · exact ⟨_, exec_literalRow hb s, litToken_exit b s⟩
    · exact ⟨_, rfl, reservedLater_exit b s⟩
  | ft => exact exec_ftRow_exit hfmt s
  | ad => exact ⟨_, exec_adRow hfmt s, layIn_exit _ s⟩

/-- The ends of a row that is no command keep the operand registers and the host's side of the port. -/
theorem MicroExit.sameOperands {s t : State} (h : MicroExit s t) : SameOperands s t := by
  cases h <;> constructor <;> intros <;> rfl

/-- They keep CU, CULEN and FR. -/
theorem MicroExit.results {s t : State} (h : MicroExit s t) : t.cu = s.cu ∧ t.culen = s.culen ∧ t.fr = s.fr := by
  cases h <;> exact ⟨rfl, rfl, rfl⟩

/-- Settles O44: none of a row's ends writes a register but STATUS, and that only by a raise. -/
theorem microRowsTouchOnlyWorkAndStatus : Obligations.MicroRowsTouchOnlyWorkAndStatus := by
  intro i s hmicro
  obtain ⟨t, ht, hexit⟩ := exec_microRow hmicro s
  obtain ⟨hcu, hculen, hfr⟩ := hexit.results
  refine ⟨t, ht, hexit.sameOperands, hcu, hculen, hfr, ?_⟩
  cases hexit with
  | same | worked => exact .inl rfl
  | raised k kind => exact .inr ⟨rfl, k, rfl, kind⟩

end Sys2Proof.Machine
end

section
/-! PROOFS of the family `other`, the commands as runs of rows (`00_scope.md` section 6, log entry 4): ENCODE is
the rows of its output, BUILD_URL the three AD rows and the rows of its stream. -/

namespace Sys2Proof.Machine

/-! ### The rows of a stream -/

/-- The row that stands for byte k of a stream (R64, R65). -/
def streamRow (k : Nat) (b : Byte) : Instr := if k = 0 then decodeT0 b else decodeTb b

theorem decodeStream_append (bs : List Byte) (b : Byte) :
    decodeStream (bs ++ [b]) = decodeStream bs ++ [streamRow bs.length b] := by
  cases bs with
  | nil => rfl
  | cons a bs => simp [decodeStream, streamRow]

/-- The row for byte k of a stream has that byte and the format of position k. -/
theorem streamRow_spec (k : Nat) (b : Byte) :
    encode (streamRow k b) = [b] ∧ (formatOf (streamRow k b) = .t0 ∨ formatOf (streamRow k b) = .tb) ∧
      (formatOf (streamRow k b) = .t0 ↔ k = 0) := by
  by_cases hk : k = 0
  · obtain ⟨-, hfmt, hbyte⟩ := decodeT0_spec b
    simp [streamRow, hk, hfmt, hbyte]
  · obtain ⟨-, hfmt, hbyte⟩ := decodeTb_spec b
    simp [streamRow, hk, hfmt, hbyte]

/-! ### ENCODE -/

/-- The first byte of a stream with the value p is prefix row p (R66). -/
theorem streamRow_mem_prefixRows {p : Nat} (h : p < pfxRom.length) : (streamRow 0 (tokenByte p), p) ∈ prefixRows := by
  revert p; decide

/-- A later byte with the value j is suffix row j (R67). -/
theorem decodeTb_mem_suffixRows {j : Nat} (h : j < sfxRom.length) : (decodeTb (tokenByte j), j) ∈ suffixRows := by
  revert j; decide

/-- A later byte in the literal range is its literal row (R65). -/
theorem literalRow_decodeTb {b : Byte} (h : 0x23 ≤ b.toNat ∧ b.toNat ≤ 0x7e) : LiteralRow (decodeTb b) b := by
  obtain ⟨-, hliteral, -⟩ := streamByteIsToldApartByValue b
  exact hliteral.2 h

/-- While ENCODE runs and the output has room, the row of the byte due emits it (R103 to R105). -/
theorem exec_decodeTb_of_emits {s : State} {c c' : Nat} {out : List Byte} {b : Byte}
    (hwork : s.work = .encoding c out) (hemits : Emits s.url c b c') (hroom : out.length ≠ 18) :
    exec (decodeTb b) s = .next (s.setWork (.encoding c' (out ++ [b]))) := by
  cases hemits with
  | suffix j first =>
    exact (suffixRowsEmitTheMatchedSuffix _ j c out s (decodeTb_mem_suffixRows first.1) hwork first).1 hroom
  | literal ch inside none lit =>
    obtain ⟨hch, hrange⟩ := lit
    exact (literalRowsEmitTheByteAtTheCursor _ b c out s (literalRow_decodeTb hrange) hwork none hch).1 hroom

/-- The rows of the output bring ENCODE from its start to wherever the scan is (R102 to R105). -/
theorem Reached.execAll_decodeStream {s : State} {c : Nat} {W : List Byte} (h : Reached s.url c W)
    (hidle : s.work = .idle) : execAll (decodeStream W) s = .next (s.setWork (.encoding c W)) := by
  induction h with
  | start p first =>
    exact execAll_cons [] (prefixRowsEmitTheMatchedPrefix _ p s (streamRow_mem_prefixRows first.1) hidle first)
  | pass c W b c' before emits room ih =>
    have hrow : streamRow W.length b = decodeTb b := by
      have hstream := before.streamOk
      cases W with
      | nil => cases hstream
      | cons a W => simp [streamRow]
    rw [decodeStream_append, execAll_append _ ih, hrow]
    exact execAll_cons [] (exec_decodeTb_of_emits (s := s.setWork (.encoding c W)) rfl emits (by omega))

/-- Settles O45: the scan comes to the end of the input with the output committed. -/
theorem encodeIsItsMicroOperations : Obligations.EncodeIsItsMicroOperations := by
  intro s hidle
  refine exec_encode_ok s fun out hreached => ?_
  rw [stream_commitCu hreached.length_le, hreached.execAll_decodeStream hidle, length_url]
  rfl

/-! ### BUILD_URL -/

/-- A turn of the copy loop for the byte that is next, as a write at its offset (R132). -/
theorem copyByte_eq_putBytes {b : Byte} {f : Frame} {k : Nat} {s : State} (hf : f[11] = 0x10#8)
    (hk : k < s.culen.toNat) (hb : s.cu[k]? = some b) :
    copyByte b f k s = s.setWork (.building (putBytes f (13 + k) [b]) (k + 1)) := by
  refine if_pos ?_
  simp only [copiesNext, Bool.and_eq_true]
  exact ⟨⟨decide_eq_true hk, decide_eq_true hb⟩, decide_eq_true hf⟩

/-- Writing bytes one after the other is writing them at once. -/
theorem putBytes_append {n : Nat} (bs cs : List Byte) : ∀ (buf : Vector Byte n) (a : Nat),
    putBytes buf a (bs ++ cs) = putBytes (putBytes buf a bs) (a + bs.length) cs := by
  induction bs with
  | nil => exact fun _ _ => rfl
  | cons b bs ih =>
    intro buf a
    rw [List.cons_append, putBytes, ih, putBytes, List.length_cons, Nat.add_assoc, Nat.add_comm 1]

/-- Bytes written behind an index leave the byte there. -/
theorem getElem_putBytes_of_lt {n : Nat} (bs : List Byte) : ∀ (buf : Vector Byte n) (a j : Nat) (hj : j < n), j < a →
    (putBytes buf a bs)[j] = buf[j] := by
  induction bs with
  | nil => exact fun _ _ _ _ _ => rfl
  | cons b bs ih =>
    intro buf a j hj hlt
    rw [putBytes, ih _ _ _ hj (by omega), Vector.getElem_setIfInBounds_ne hj (by omega)]

/-- Every byte of the stream is the byte of CU at its position (R132). -/
theorem cu_of_prefix_stream {s : State} {bs : List Byte} {b : Byte} (h : bs ++ [b] <+: s.stream) :
    s.cu[bs.length]? = some b := by
  obtain ⟨more, hmore⟩ := h.trans (List.take_prefix _ s.cu.toList)
  rw [← Vector.getElem?_toList, ← hmore]
  simp

/-- The rows of the first bytes of the stream copy them into the URL frame being built (R132). -/
theorem execAll_copy {s : State} {f : Frame} (hurl : f[11] = 0x10#8) (hlen : s.culen.toNat ≤ 18) (bs : List Byte)
    (h : bs <+: s.stream) : execAll (decodeStream bs) (s.setWork (.building f 0)) =
      .next (s.setWork (.building (putBytes f 13 bs) bs.length)) := by
  induction bs using List.reverseRecOn with
  | nil => rfl
  | append_singleton bs b ih =>
    have hroom := h.length_le
    rw [List.length_append, List.length_singleton, length_stream s hlen] at hroom
    have hurl' : (putBytes f 13 bs)[11] = 0x10#8 := by rw [getElem_putBytes_of_lt _ _ _ _ _ (by decide), hurl]
    obtain ⟨henc, hfmt, hposition⟩ := streamRow_spec bs.length b
    rw [decodeStream_append, execAll_append _ (ih ((List.prefix_append bs [b]).trans h))]
    refine execAll_cons [] ((exec_streamRow_building henc hfmt rfl).trans ?_)
    rw [if_pos hposition, copyByte_eq_putBytes (s := s.setWork (.building (putBytes f 13 bs) bs.length)) hurl' hroom
      (cu_of_prefix_stream h), putBytes_append, List.length_append]
    rfl

/-- The working frame after PRE and the copy of `bs`: TXPOWER's byte is still zero (R130, R132). -/
theorem toList_copied (l t : Byte) (bs : List Byte) (h : bs.length ≤ 18) :
    (putBytes (putPre l t zeroFrame) 13 bs).toList =
      [0x02#8, 0x01#8, 0x06#8, 0x03#8, 0x03#8, 0xaa#8, 0xfe#8, l, 0x16#8, 0xaa#8, 0xfe#8, t, 0x00#8] ++ bs ++
        List.replicate (18 - bs.length) 0x00#8 := by
  have hpre : (putPre l t zeroFrame).toList =
      [0x02#8, 0x01#8, 0x06#8, 0x03#8, 0x03#8, 0xaa#8, 0xfe#8, l, 0x16#8, 0xaa#8, 0xfe#8, t, 0x00#8] ++
        List.replicate 18 0x00#8 := by
    rw [toList_putPre, toList_zeroFrame]
    rfl
  rw [toList_putBytes _ _ _ (by omega), hpre, List.take_left' (i := 13) (by rfl), ← List.drop_drop,
    List.drop_left' (i := 13) (by rfl), List.drop_replicate]

/-- With TXPOWER at offset 12 the frame copied is format URL (R72). -/
theorem set_copied_eq_urlFrame (tx culen : Byte) {stream : List Byte} (h : stream.length ≤ 18) :
    (putBytes (putPre (4#8 + culen) FrameType.url.byte zeroFrame) 13 stream).set 12 tx = urlFrame tx culen stream := by
  rw [← Vector.toList_inj, Vector.toList_set, toList_copied _ _ _ h, toList_urlFrame _ _ _ h]
  rfl

/-- PRE's last byte is the frame type (R130). -/
theorem getElem_eleven_putPre (l t : Byte) (f : Frame) : (putPre l t f)[11] = t :=
  (Option.some.inj (getElem_eq_of_toList _ _ (toList_putPre l t f) 11 (by decide))).symm

/-- The three AD rows with a URL frame's head, then the rows of the stream, from an idle block. -/
theorem execAll_buildUrlRows {s : State} (hidle : s.work = .idle) (hlen : s.culen.toNat ≤ 18) :
    execAll ([.adFlags, .adUuid16List, .adServiceData (4#8 + s.culen) .url] ++ decodeStream s.stream) s =
      .next (s.setWork (.building (putBytes (putPre (4#8 + s.culen) FrameType.url.byte zeroFrame) 13 s.stream)
        s.culen.toNat)) := by
  have hurl := getElem_eleven_putPre (4#8 + s.culen) FrameType.url.byte zeroFrame
  rw [execAll_append _ (execAll_preamble (.inr ⟨hidle, rfl, rfl⟩) _ _),
    execAll_copy hurl hlen s.stream (List.prefix_refl _), length_stream s hlen]

/-- Settles O46: PRE, then the copy of the whole stream. -/
theorem buildUrlIsItsMicroOperations : Obligations.BuildUrlIsItsMicroOperations := by
  intro s hidle hlen
  have hstream : s.stream.length ≤ 18 := (length_stream s hlen).trans_le hlen
  exact ⟨_, _, exec_buildUrl_of_culen hlen, execAll_buildUrlRows hidle hlen,
    (set_copied_eq_urlFrame _ _ hstream).trans (fr_done_commitFr ..).symm⟩

end Sys2Proof.Machine
end

section
/-! PROOFS of the family `other`, the whole machine: the invariant every step keeps, and that the host's own
moves never stop it. -/

namespace Sys2Proof.Machine

/-! ### Assembled frames are frames -/

/-- The bytes of an assembled frame from the end of its payload on are zero (R134). -/
theorem zeroFrom_payload (l t : Byte) (bs : List Byte) (h : bs.length ≤ 19) {a : Nat} (ha : 12 + bs.length ≤ a) :
    zeroFrom (putBytes (putPre l t zeroFrame) 12 bs) a = true := by
  obtain ⟨j, rfl⟩ := Nat.exists_eq_add_of_le ha
  rw [zeroFrom, toList_payload l t bs h, ← List.drop_drop, List.drop_left' (by simp; omega), List.drop_replicate,
    List.all_replicate]
  simp

/-- The fixed bytes of an assembled frame's preamble (R70). -/
theorem preambleOk_payload (l t : Byte) (bs : List Byte) (h : bs.length ≤ 19) :
    preambleOk (putBytes (putPre l t zeroFrame) 12 bs) = true := by
  rw [preambleOk, toList_payload l t bs h]
  rfl

/-- What a build command assembles is a frame of its kind (R70 to R73). -/
theorem Assembles.frameOk {s : State} {i : Instr} {f : Frame} (h : Assembles s i f) : frameOk f = true := by
  rw [Machine.frameOk, Bool.and_eq_true]
  cases h with
  | uid =>
    obtain ⟨hseven, heleven⟩ := uidFrame_head s.txpower s.nidbuf s.bidbuf
    refine ⟨preambleOk_payload _ _ _ (by simp), ?_⟩
    rw [hseven, heleven]
    exact zeroFrom_payload _ _ _ (by simp) (by simp)
  | url len =>
    have hstream := length_stream s len
    obtain ⟨hseven, heleven⟩ := urlFrame_head s.txpower s.culen (hstream.trans_le len)
    refine ⟨preambleOk_payload _ _ _ (by simp; omega), ?_⟩
    have hlen : (4#8 + s.culen).toNat = 4 + s.culen.toNat := by
      rw [sdLenUrl_eq, BitVec.toNat_ofNat]
      omega
    rw [hseven, heleven]
    simp only [show frameTypeOf 0x10#8 = some .url from rfl, Bool.and_eq_true]
    refine ⟨by simp [serviceDataLenOk, hlen]; omega, ?_⟩
    exact zeroFrom_payload _ _ _ (by simp; omega) (by simp; omega)
  | tlm =>
    obtain ⟨hseven, heleven⟩ := tlmFrame_head s.advcnt s.elapsed
    have hlen : (tlmFixed ++ be32 s.advcnt ++ be32 s.elapsed).length = 13 := rfl
    refine ⟨preambleOk_payload _ _ _ (by omega), ?_⟩
    rw [hseven, heleven]
    simp only [show frameTypeOf 0x20#8 = some .tlm from rfl, Bool.and_eq_true]
    refine ⟨⟨rfl, ?_⟩, zeroFrom_payload _ _ _ (by omega) (by omega)⟩
    rw [toList_tlmFrame]
    rfl

/-! ### The invariant -/

/-- Settles O56: the lists are empty, the counts zero, FR is 31 zeros and the block is idle. -/
theorem resetStateIsGood : Obligations.ResetStateIsGood where
  canonical := reset_urlbuf_wf
  inside := by simp [State.reset]
  urllen := Nat.zero_le _
  frame := by simp [frOk, State.reset, zeroFrame]
  work := rfl

/-- The invariant does not look at the host's side of the port. -/
theorem State.Inv.setPending {s : State} (h : s.Inv) (es : List Event) : (s.setPending es).Inv :=
  ⟨h.canonical, h.inside, h.urllen, h.frame, h.work⟩

/-- A command keeps the invariant: what it commits to FR is a frame. -/
theorem State.Inv.of_commandExit {s t : State} {i : Instr} (h : s.Inv) (hexit : CommandExit s i t) : t.Inv := by
  cases hexit with
  | raised | encoded => exact ⟨h.canonical, h.inside, h.urllen, h.frame, rfl⟩
  | built f frame =>
    exact ⟨h.canonical, h.inside, h.urllen, by simp [frOk, frame.frameOk], rfl⟩

/-- A row that is no command keeps the invariant: the working variables stay in range. -/
theorem State.Inv.of_microExit {s t : State} (h : s.Inv) (hexit : MicroExit s t) : t.Inv := by
  cases hexit with
  | same => exact h
  | raised k kind => exact ⟨h.canonical, h.inside, h.urllen, h.frame, rfl⟩
  | worked w range => exact ⟨h.canonical, h.inside, h.urllen, h.frame, range h.work⟩

/-- Every row keeps the invariant. -/
theorem State.Inv.of_exec {s t : State} {i : Instr} (h : s.Inv) (hexec : exec i s = .next t) : t.Inv := by
  cases hcmd : isCommand i with
  | true =>
    obtain ⟨t', ht', hexit⟩ := exec_command hcmd s
    exact Host.Outcome.next.inj (ht'.symm.trans hexec) ▸ h.of_commandExit hexit
  | false =>
    obtain ⟨t', ht', hexit⟩ := exec_microRow hcmd s
    exact Host.Outcome.next.inj (ht'.symm.trans hexec) ▸ h.of_microExit hexit

/-- Every write of the host that is served keeps the invariant (R160). -/
theorem State.Inv.of_hostWrite {s t : State} {w : HostWrite} (h : s.Inv) (hwrite : hostWrite w s = .next t) : t.Inv := by
  cases w
  case urlbuf k v =>
    obtain ⟨hk, rfl⟩ := hostWrite_urlbuf_eq_next_iff.1 hwrite
    exact ⟨Memory.write_wf _ h.canonical k v, Memory.write_inside _ _ k v h.inside hk, h.urllen, h.frame, h.work⟩
  case urllen n =>
    obtain ⟨hn, rfl⟩ := hostWrite_urllen_eq_next_iff.1 hwrite
    exact ⟨h.canonical, h.inside, hn, h.frame, h.work⟩
  all_goals
    cases hwrite
    exact ⟨h.canonical, h.inside, h.urllen, h.frame, h.work⟩

/-- A read that is served hands over a value (R161). -/
theorem hostRead_eq_next {s t : State} {r : HostRead} (h : hostRead r s = .next t) : t = s.reply (readValue r s) := by
  cases r
  case urlbuf k =>
    simp only [hostRead] at h
    split at h
    · exact (Host.Outcome.next.inj h).symm
    · cases h
  all_goals exact (Host.Outcome.next.inj h).symm

/-- Settles O57: each event's service keeps the invariant, in the state without the event. -/
theorem everyStepKeepsTheInvariant : Obligations.EveryStepKeepsTheInvariant := by
  intro s t hinv hstep
  match hpend : s.pending with
  | [] => exact Host.Outcome.next.inj ((step_of_pending_nil hpend).symm.trans hstep) ▸ hinv
  | .write w :: rest => exact (hinv.setPending rest).of_hostWrite ((step_write hpend).symm.trans hstep)
  | .read r :: rest =>
    obtain ⟨hcanonical, hinside, hurllen, hframe, hwork⟩ := hinv
    obtain rfl := hostRead_eq_next ((step_read hpend).symm.trans hstep)
    exact ⟨hcanonical, hinside, hurllen, hframe, hwork⟩
  | .cmd v :: rest => exact (hinv.setPending rest).of_exec ((step_cmd hpend).symm.trans hstep)
  | .reset :: rest =>
    obtain ⟨hcanonical, hinside, hurllen, hframe, hwork⟩ := resetStateIsGood
    cases (step_reset hpend).symm.trans hstep
    exact ⟨hcanonical, hinside, hurllen, hframe, hwork⟩
  | .micro fmt bytes :: rest =>
    obtain ⟨i, hdec⟩ := decode_of_step_micro hpend hstep
    exact (hinv.setPending rest).of_exec ((step_micro hpend hdec).symm.trans hstep)

/-! ### The host's moves -/

/-- Serving a move the host has leaves the working variables idle if they were, and the rest of the port. -/
theorem step_hostMove {s : State} {e : Event} {rest : List Event} (hpend : s.pending = e :: rest)
    (hidle : s.work = .idle) (hmove : hostMove e = true) :
    ∃ t, step s = .next t ∧ t.work = .idle ∧ t.pending = rest := by
  cases e with
  | write w =>
    obtain ⟨t, ht, hwork, hpending, -⟩ := hostWrite_of_hostMove hmove (s.setPending rest)
    exact ⟨t, (step_write hpend).trans ht, hwork.trans hidle, hpending⟩
  | read r => exact ⟨_, (step_read hpend).trans (hostRead_of_hostMove hmove _), hidle, rfl⟩
  | cmd v =>
    obtain ⟨t, ht, hexit⟩ := exec_command (isCommand_decodeCmd v) (s.setPending rest)
    exact ⟨t, (step_cmd hpend).trans ht, hexit.work_eq, hexit.sameOperands.pending⟩
  | reset => exact ⟨_, step_reset hpend, resetBlock_work _, resetBlock_pending _⟩
  | micro fmt bytes => cases hmove

/-- Settles O58: with nothing presented the step changes nothing; else it serves a move the host has. -/
theorem hostMovesNeverStopTheMachine : Obligations.HostMovesNeverStopTheMachine := by
  rintro s ⟨hidle, hmoves⟩
  cases hpend : s.pending with
  | nil => exact ⟨s, step_of_pending_nil hpend, ⟨hidle, hmoves⟩, hpend⟩
  | cons e rest =>
    rw [hpend] at hmoves
    obtain ⟨t, ht, hwork, hrest⟩ := step_hostMove hpend hidle (hmoves e List.mem_cons_self)
    refine ⟨t, ht, ⟨hwork, fun e' he' => ?_⟩, hrest⟩
    rw [hrest] at he'
    exact hmoves e' (List.mem_cons_of_mem _ he')

end Sys2Proof.Machine
end
